-- ==== Sys2Proof/Word.lean ====
section
/-! DEFINITION. The bit-vector types of spec/00_scope.md R8: every register value is unsigned, bit 0 is the least
significant bit. -/

namespace Sys2Proof

/-- `u32`: a register, an operation word, a data operand. -/
abbrev Word := BitVec 32

/-- `u16`: an RTC half, the latch pair, a 2-byte REG access. -/
abbrev Half := BitVec 16

/-- `u8`: ARMRST, VREG, a 1-byte REG access, a byte of flat memory. -/
abbrev Byte := BitVec 8

/-- `u15`: a masked REG address (spec/20_memory.md R62) and the SEL field of an operation word. -/
abbrev RegAddr := BitVec 15

end Sys2Proof
end

