-- ==== Sys2Proof/Config.lean ====
section
/-! DEFINITION. What spec/00_scope.md R7 leaves to the implementation (`Config`, a record that State carries and no
step writes), and the free values: opaque constants that nothing can evaluate. The default numbers are in
Sys2Proof/Machine/Params.lean. -/

namespace Sys2Proof

/-- `sched_rearm` (92_eei_decisions D22): what the external scheduler does with a second request on an armed handle. -/
inductive Rearm where
  /-- the new request replaces the outstanding one (the spec's reference value) -/
  | replace
  /-- the new request is a second firing -/
  | queue
  deriving DecidableEq, Repr

/-- A range of the flat address space with memory behind it: `size` bytes from `base`. -/
structure Region where
  base : Nat
  size : Nat
  deriving DecidableEq, Repr

/-- The implementation parameters that the spec leaves open or supplies from general knowledge (R7).
DESIGN CHOICE, safe: State carries this record, so a statement about every state holds for every configuration. -/
structure Config where
  /-- `C`, scheduler cycles per emulated second -/
  clock : Nat
  /-- `A_RST` without its bit 0, which is 0: 92_eei_decisions D5 takes `A_RST` even. `Config.aRst` is `A_RST`. -/
  aRstHalf : BitVec 14
  /-- `SUSP_IND`, the mask of the primary channel's suspend-indicator bit -/
  suspInd : Word
  /-- `RTC_EPOCH_OFFSET`, seconds from the RTC epoch to the Unix epoch -/
  rtcEpochOffset : Nat
  /-- `sched_rearm` -/
  schedRearm : Rearm
  /-- `RTC_OFF_MASK`, how a bus address becomes an RTC offset (20_memory R61, 92 D10) -/
  rtcOffMask : BitVec 8
  /-- the bus addresses mapped to the RTC port (OPEN, 20_memory R70) -/
  rtcWindow : Region
  /-- the bus addresses mapped to the REG port (OPEN, 20_memory R70) -/
  regWindow : Region
  /-- the bus addresses mapped to the DMA port, its base the address of `DST[0]` (OPEN, 20_memory R70) -/
  dmaWindow : Region
  /-- where the flat memory has memory behind it (20_memory R77; the platform's map is OPEN, R70) -/
  ram : List Region
  deriving DecidableEq, Repr

/-- FREE VALUE, safe: the seed of the RESET that precedes `State.reset` (10_state R37, 93 U10). -/
opaque Config.bootSeed : Word

/-- FREE VALUE, safe: what the external register file answers to the n-th forwarded read for which no answer is listed
(20_memory R76, 93 U9). A 1-byte read takes its low 8 bits. -/
opaque Config.freeAnswer : Nat → Half

end Sys2Proof
end

