-- ==== Sys2Proof/Syntax.lean ====
section
/-! DEFINITION. The operations of the block: one constructor of `Instr` per operation of spec/30_encoding.md R95
(spec/opcode_table.json; its two OPW.INVALID rows are one verdict, one constructor). -/

namespace Sys2Proof

/-- The access width `w = 1 << WC` (30_encoding R91). -/
inductive Width where
  | b1 | b2 | b4
  deriving DecidableEq, Repr

/-- The widths of a forwarded REG access and of a DMA access of invalid width: 1 or 2 bytes. -/
inductive Narrow where
  | one | two
  deriving DecidableEq, Repr

/-- A DMA channel (20_memory R63, 42_dma R180): 0 is the primary channel, 1 and 2 the extension channels, 3 the device channel. -/
inductive Chan where
  | ch0 | ch1 | ch2 | ch3
  deriving DecidableEq, Repr

/-- An operation as it is offered to the block: the operation word and the data operand (30_encoding R90). -/
structure Op where
  opw : Word
  data : Word
  deriving DecidableEq, Repr

/-- The operations of the block (30_encoding R95). A read's data operand is ignored (R90), so a read carries none. -/
inductive Instr where
  -- RTC port, spec/40_rtc.md; `w` is encoded and ignored (92 D9)
  /-- RTC.RDH -/
  | rtcRdh (w : Width)
  /-- RTC.RDL -/
  | rtcRdl (w : Width)
  /-- RTC.RDEN -/
  | rtcRden (w : Width)
  /-- RTC.WRH -/
  | rtcWrh (w : Width) (data : Word)
  /-- RTC.WRL -/
  | rtcWrl (w : Width) (data : Word)
  /-- RTC.WREN -/
  | rtcWren (w : Width) (data : Word)
  /-- RTC.RDINV -/
  | rtcRdinv (w : Width) (off : BitVec 8)
  /-- RTC.WRINV -/
  | rtcWrinv (w : Width) (off : BitVec 8) (data : Word)
  -- REG port, spec/41_reset_latch_decoder.md
  /-- REG.RD8.RST -/
  | regRd8Rst
  /-- REG.WR8.RST -/
  | regWr8Rst (data : Word)
  /-- REG.RD8.VREG -/
  | regRd8Vreg
  /-- REG.WR8.VREG -/
  | regWr8Vreg (data : Word)
  /-- REG.RD16.PAIR -/
  | regRd16Pair
  /-- REG.WR16.PAIR -/
  | regWr16Pair (data : Word)
  /-- REG.RD.BADW -/
  | regRdBadw (a : RegAddr)
  /-- REG.WR.BADW -/
  | regWrBadw (a : RegAddr) (data : Word)
  /-- REG.RD.PASS -/
  | regRdPass (w : Narrow) (a : RegAddr)
  /-- REG.WR.PASS -/
  | regWrPass (w : Narrow) (a : RegAddr) (data : Word)
  -- DMA port, spec/42_dma.md; `low` is SEL[4:0]
  /-- DMA.RD.DST -/
  | dmaRdDst (c : Chan)
  /-- DMA.RD.SRC -/
  | dmaRdSrc (c : Chan)
  /-- DMA.RD.LEN -/
  | dmaRdLen (c : Chan)
  /-- DMA.RD.DIR -/
  | dmaRdDir (c : Chan)
  /-- DMA.RD.EN -/
  | dmaRdEn (c : Chan)
  /-- DMA.RD.ST -/
  | dmaRdSt (c : Chan)
  /-- DMA.RD.SUSP -/
  | dmaRdSusp (c : Chan)
  /-- DMA.WR.DST -/
  | dmaWrDst (c : Chan) (data : Word)
  /-- DMA.WR.SRC -/
  | dmaWrSrc (c : Chan) (data : Word)
  /-- DMA.WR.LEN -/
  | dmaWrLen (c : Chan) (data : Word)
  /-- DMA.WR.DIR -/
  | dmaWrDir (c : Chan) (data : Word)
  /-- DMA.WR.EN -/
  | dmaWrEn (c : Chan) (data : Word)
  /-- DMA.WR.SUSP -/
  | dmaWrSusp (c : Chan) (data : Word)
  /-- DMA0.WR.ST -/
  | dma0WrSt (data : Word)
  /-- DMA1.WR.ST -/
  | dma1WrSt (data : Word)
  /-- DMA2.WR.ST -/
  | dma2WrSt (data : Word)
  /-- DMA3.WR.ST -/
  | dma3WrSt (data : Word)
  /-- DMA.RD.RSVD -/
  | dmaRdRsvd (c : Chan) (low : BitVec 5)
  /-- DMA.WR.RSVD -/
  | dmaWrRsvd (c : Chan) (low : BitVec 5) (data : Word)
  /-- DMA.RD.BADW -/
  | dmaRdBadw (w : Narrow) (c : Chan) (low : BitVec 5)
  /-- DMA.WR.BADW -/
  | dmaWrBadw (w : Narrow) (c : Chan) (low : BitVec 5) (data : Word)
  -- events
  /-- RESET, spec/70_reset_and_hazards.md R260 -/
  | reset (seed : Word)
  /-- RTC.TICK, spec/40_rtc.md R128 -/
  | rtcTick
  /-- DMA0.DONE, spec/42_dma.md R207 -/
  | dma0Done
  /-- OPW.INVALID, spec/30_encoding.md R96(b): the decoder's verdict on a word that spells no operation -/
  | opwInvalid (opw : Word)
  deriving DecidableEq, Repr

end Sys2Proof
end

