-- ==== Sys2Proof/Machine/Fields.lean ====
section
/-! DEFINITION. The fields of an operation word (spec/30_encoding.md R91, R92), taken out and put together in one place,
and the code of each width and channel. -/

namespace Sys2Proof

/-- OPW[31:30]: 0 = RTC, 1 = REG, 2 = DMA, 3 = EVT. -/
def opwPort (w : Word) : BitVec 2 := w.extractLsb' 30 2

/-- OPW[29]: 0 = read and every event, 1 = write. -/
def opwRw (w : Word) : BitVec 1 := w.extractLsb' 29 1

/-- OPW[28:27], the access width code. -/
def opwWc (w : Word) : BitVec 2 := w.extractLsb' 27 2

/-- OPW[26:15], which must be 0. -/
def opwZ (w : Word) : BitVec 12 := w.extractLsb' 15 12

/-- OPW[14:0], the selector. -/
def opwSel (w : Word) : RegAddr := w.extractLsb' 0 15

/-- `OPW = PORT << 30 | RW << 29 | WC << 27 | SEL`, with Z = 0 (R91). -/
def opwOf (port : BitVec 2) (rw : BitVec 1) (wc : BitVec 2) (sel : RegAddr) : Word :=
  port.setWidth 32 <<< 30 ||| rw.setWidth 32 <<< 29 ||| wc.setWidth 32 <<< 27 ||| sel.setWidth 32

/-- The WC code of a width (R91). -/
def Width.code : Width → BitVec 2
  | .b1 => 0#2
  | .b2 => 1#2
  | .b4 => 2#2

/-- The width that a WC code in 0..2 stands for (R91); code 3 never reaches here (R95 row 0). -/
def Width.ofCode (c : BitVec 2) : Width :=
  if c = 0#2 then .b1 else if c = 1#2 then .b2 else .b4

/-- The width in bytes (R91). -/
def Width.bytes : Width → Nat
  | .b1 => 1
  | .b2 => 2
  | .b4 => 4

/-- A narrow width as an access width. -/
def Narrow.toWidth : Narrow → Width
  | .one => .b1
  | .two => .b2

/-- The narrow width that a WC code in 0..1 stands for. -/
def Narrow.ofCode (c : BitVec 2) : Narrow :=
  if c = 0#2 then .one else .two

/-- SEL[6:5] of a channel (R92(c)). -/
def Chan.bits : Chan → BitVec 2
  | .ch0 => 0#2
  | .ch1 => 1#2
  | .ch2 => 2#2
  | .ch3 => 3#2

/-- The channel of SEL[6:5] (R92(c)). -/
def Chan.ofBits (b : BitVec 2) : Chan :=
  if b = 0#2 then .ch0 else if b = 1#2 then .ch1 else if b = 2#2 then .ch2 else .ch3

/-- RTC: SEL[7:0] = off (R92(a)). -/
def selOff (sel : RegAddr) : BitVec 8 := sel.extractLsb' 0 8

/-- RTC: SEL[14:8], which must be 0 (R92(a)). -/
def selRtcHigh (sel : RegAddr) : BitVec 7 := sel.extractLsb' 8 7

/-- DMA: SEL[14:7], which must be 0 (R92(c)). -/
def selDmaHigh (sel : RegAddr) : BitVec 8 := sel.extractLsb' 7 8

/-- DMA: the channel c = SEL[6:5] (R92(c)). -/
def selChan (sel : RegAddr) : Chan := Chan.ofBits (sel.extractLsb' 5 2)

/-- DMA: SEL[4:0], the register index and the byte offset within the register (R92(c)). -/
def selLow (sel : RegAddr) : BitVec 5 := sel.extractLsb' 0 5

/-- The selector of an RTC offset (R92(a)). -/
def rtcSel (off : BitVec 8) : RegAddr := off.setWidth 15

/-- The selector of a DMA channel and SEL[4:0] (R92(c)). -/
def dmaSel (c : Chan) (low : BitVec 5) : RegAddr :=
  c.bits.setWidth 15 <<< 5 ||| low.setWidth 15

end Sys2Proof
end

