-- ==== Sys2Proof/Machine/Params.lean ====
section
/-! DEFINITION. The values spec/00_scope.md R7 takes for its parameters. The numbers of `defaultConfig` are the spec's
own general-knowledge values (93_implementation_defined G1 to G5, G7): no statement rests on them unless it says so. -/

namespace Sys2Proof

/-- `A_RST`, the decoder address of the reset latch and of the pair: even (R7, 92 D5). -/
def Config.aRst (cfg : Config) : RegAddr := cfg.aRstHalf.setWidth 15 <<< 1

namespace Machine

/-- `T_INLINE`, the inline-completion threshold in scheduler cycles (R7, 42_dma R202). -/
def tInline : Nat := 4096

/-- `BUS_DIV` (R7). -/
def busDiv : Nat := 2

/-- `BUS_RATE` (R7). -/
def busRate : Nat := 25000000

/-- The parameters' values of R7. PRESUMED (the spec marks them so): `C`, `A_RST`, `SUSP_IND`, the epoch offset, the RTC
offset mask, and the bases of the three windows (20_memory R70). `sched_rearm` is the reference value of 92 D22. DESIGN
CHOICE: the RTC window is 256 bytes long, and the whole flat address space has memory behind it. -/
def defaultConfig : Config where
  clock := 200000000
  aRstHalf := 0x1600#14
  suspInd := 0x00000010#32
  rtcEpochOffset := 631152000
  schedRearm := .replace
  rtcOffMask := 0xFF#8
  rtcWindow := ⟨0x00710000, 0x100⟩
  regWindow := ⟨0x00700000, 0x8000⟩
  dmaWindow := ⟨0x005F7800, 0x80⟩
  ram := [⟨0, 2 ^ 32⟩]

/-- `A_VREG = A_RST + 1` (R7, 92 D5). -/
def aVreg (cfg : Config) : RegAddr := cfg.aRst + 1#15

/-- `RTC_TICK_DELTA = C` (R7, 92 D13). -/
def rtcTickDelta (cfg : Config) : Nat := cfg.clock

/-- `K`, cycles per byte of the primary channel (42_dma R201): truncating division, left to right. -/
def cyclesPerByte (cfg : Config) : Nat := cfg.clock / busDiv / busRate

end Machine

end Sys2Proof
end

