-- ==== Sys2Proof/WellFormed.lean ====
section
/-! DEFINITION. Which terms of `Instr` are operations of the map of spec/30_encoding.md R95: the operands that a row's
"any other" catch-all admits, and the words of R96(b). -/

namespace Sys2Proof

/-- 40_rtc R123, R127: an invalid RTC offset is one not in {0, 4, 8}. -/
def rtcOffInvalid (off : BitVec 8) : Bool :=
  off != 0#8 && off != 4#8 && off != 8#8

/-- 41_reset_latch_decoder R150: the (width, address) pairs that the decoder intercepts. -/
def regIntercepted (cfg : Config) (w : Narrow) (a : RegAddr) : Bool :=
  match w with
  | .one => a == cfg.aRst || a == Machine.aVreg cfg
  | .two => a == cfg.aRst

/-- 42_dma R194: SEL[4:0] names no register when idx is 4 or SEL[1:0] is not 0. -/
def dmaLowInvalid (low : BitVec 5) : Bool :=
  low.extractLsb' 2 3 == 4#3 || low.extractLsb' 0 2 != 0#2

/-- 30_encoding R96(b): the words that spell no operation. -/
def opwSpellsNothing (w : Word) : Bool :=
  opwWc w == 3#2 || opwZ w != 0#12
    || (opwPort w == 0#2 && selRtcHigh (opwSel w) != 0#7)
    || (opwPort w == 2#2 && selDmaHigh (opwSel w) != 0#8)
    || (opwPort w == 3#2 && (opwRw w == 1#1 || opwWc w != 0#2 || decide (2 < (opwSel w).toNat)))

/-- The operands of an operation are those its row of R95 admits. -/
def Instr.wf (cfg : Config) : Instr → Bool
  | .rtcRdh _ | .rtcRdl _ | .rtcRden _ => true
  | .rtcWrh _ _ | .rtcWrl _ _ | .rtcWren _ _ => true
  | .rtcRdinv _ off => rtcOffInvalid off
  | .rtcWrinv _ off _ => rtcOffInvalid off
  | .regRd8Rst | .regWr8Rst _ | .regRd8Vreg | .regWr8Vreg _ => true
  | .regRd16Pair | .regWr16Pair _ => true
  | .regRdBadw _ | .regWrBadw _ _ => true
  | .regRdPass w a => !regIntercepted cfg w a
  | .regWrPass w a _ => !regIntercepted cfg w a
  | .dmaRdDst _ | .dmaRdSrc _ | .dmaRdLen _ | .dmaRdDir _ => true
  | .dmaRdEn _ | .dmaRdSt _ | .dmaRdSusp _ => true
  | .dmaWrDst _ _ | .dmaWrSrc _ _ | .dmaWrLen _ _ | .dmaWrDir _ _ => true
  | .dmaWrEn _ _ | .dmaWrSusp _ _ => true
  | .dma0WrSt _ | .dma1WrSt _ | .dma2WrSt _ | .dma3WrSt _ => true
  | .dmaRdRsvd _ low => dmaLowInvalid low
  | .dmaWrRsvd _ low _ => dmaLowInvalid low
  | .dmaRdBadw _ _ _ | .dmaWrBadw _ _ _ _ => true
  | .reset _ | .rtcTick | .dma0Done => true
  | .opwInvalid w => opwSpellsNothing w

end Sys2Proof
end

