-- ==== Sys2Proof/Decode.lean ====
section
/-! DEFINITION. The operation map of spec/30_encoding.md R95 as a table of match and mask rows in priority order, the
decoder that takes the first row that matches (R94), and the encoder (R91, R92). -/

namespace Sys2Proof

/-- A row of R95: an operation word selects it when `OPW AND mask = match`. -/
structure Row where
  mtch : Word
  mask : Word
  /-- the row's operation, with the operands that R92 and R93 take out of the word and the data -/
  build : Op → Instr

/-- R95 rows 0 to 8. -/
def rowsRtc : List Row :=
  [⟨0x18000000#32, 0x18000000#32, fun o => .opwInvalid o.opw⟩,
   ⟨0x00000000#32, 0xE7FFFFFF#32, fun o => .rtcRdh (Width.ofCode (opwWc o.opw))⟩,
   ⟨0x00000004#32, 0xE7FFFFFF#32, fun o => .rtcRdl (Width.ofCode (opwWc o.opw))⟩,
   ⟨0x00000008#32, 0xE7FFFFFF#32, fun o => .rtcRden (Width.ofCode (opwWc o.opw))⟩,
   ⟨0x20000000#32, 0xE7FFFFFF#32, fun o => .rtcWrh (Width.ofCode (opwWc o.opw)) o.data⟩,
   ⟨0x20000004#32, 0xE7FFFFFF#32, fun o => .rtcWrl (Width.ofCode (opwWc o.opw)) o.data⟩,
   ⟨0x20000008#32, 0xE7FFFFFF#32, fun o => .rtcWren (Width.ofCode (opwWc o.opw)) o.data⟩,
   ⟨0x00000000#32, 0xE7FFFF00#32, fun o => .rtcRdinv (Width.ofCode (opwWc o.opw)) (selOff (opwSel o.opw))⟩,
   ⟨0x20000000#32, 0xE7FFFF00#32, fun o => .rtcWrinv (Width.ofCode (opwWc o.opw)) (selOff (opwSel o.opw)) o.data⟩]

/-- R95 rows 9 to 18. Rows 9 to 14 hold `A_RST` and `A_VREG`, so they are made from the configuration (R95: "a model
with other values of those parameters regenerates those six rows"). -/
def rowsReg (cfg : Config) : List Row :=
  [⟨0x40000000#32 ||| cfg.aRst.setWidth 32, 0xFFFFFFFF#32, fun _ => .regRd8Rst⟩,
   ⟨0x60000000#32 ||| cfg.aRst.setWidth 32, 0xFFFFFFFF#32, fun o => .regWr8Rst o.data⟩,
   ⟨0x40000000#32 ||| (Machine.aVreg cfg).setWidth 32, 0xFFFFFFFF#32, fun _ => .regRd8Vreg⟩,
   ⟨0x60000000#32 ||| (Machine.aVreg cfg).setWidth 32, 0xFFFFFFFF#32, fun o => .regWr8Vreg o.data⟩,
   ⟨0x48000000#32 ||| cfg.aRst.setWidth 32, 0xFFFFFFFF#32, fun _ => .regRd16Pair⟩,
   ⟨0x68000000#32 ||| cfg.aRst.setWidth 32, 0xFFFFFFFF#32, fun o => .regWr16Pair o.data⟩,
   ⟨0x50000000#32, 0xFFFF8000#32, fun o => .regRdBadw (opwSel o.opw)⟩,
   ⟨0x70000000#32, 0xFFFF8000#32, fun o => .regWrBadw (opwSel o.opw) o.data⟩,
   ⟨0x40000000#32, 0xE7FF8000#32, fun o => .regRdPass (Narrow.ofCode (opwWc o.opw)) (opwSel o.opw)⟩,
   ⟨0x60000000#32, 0xE7FF8000#32, fun o => .regWrPass (Narrow.ofCode (opwWc o.opw)) (opwSel o.opw) o.data⟩]

/-- R95 rows 19 to 31: plain DMA register accesses, one row for the four channels. -/
def rowsDmaPlain : List Row :=
  [⟨0x90000000#32, 0xFFFFFF9F#32, fun o => .dmaRdDst (selChan (opwSel o.opw))⟩,
   ⟨0x90000004#32, 0xFFFFFF9F#32, fun o => .dmaRdSrc (selChan (opwSel o.opw))⟩,
   ⟨0x90000008#32, 0xFFFFFF9F#32, fun o => .dmaRdLen (selChan (opwSel o.opw))⟩,
   ⟨0x9000000C#32, 0xFFFFFF9F#32, fun o => .dmaRdDir (selChan (opwSel o.opw))⟩,
   ⟨0x90000014#32, 0xFFFFFF9F#32, fun o => .dmaRdEn (selChan (opwSel o.opw))⟩,
   ⟨0x90000018#32, 0xFFFFFF9F#32, fun o => .dmaRdSt (selChan (opwSel o.opw))⟩,
   ⟨0x9000001C#32, 0xFFFFFF9F#32, fun o => .dmaRdSusp (selChan (opwSel o.opw))⟩,
   ⟨0xB0000000#32, 0xFFFFFF9F#32, fun o => .dmaWrDst (selChan (opwSel o.opw)) o.data⟩,
   ⟨0xB0000004#32, 0xFFFFFF9F#32, fun o => .dmaWrSrc (selChan (opwSel o.opw)) o.data⟩,
   ⟨0xB0000008#32, 0xFFFFFF9F#32, fun o => .dmaWrLen (selChan (opwSel o.opw)) o.data⟩,
   ⟨0xB000000C#32, 0xFFFFFF9F#32, fun o => .dmaWrDir (selChan (opwSel o.opw)) o.data⟩,
   ⟨0xB0000014#32, 0xFFFFFF9F#32, fun o => .dmaWrEn (selChan (opwSel o.opw)) o.data⟩,
   ⟨0xB000001C#32, 0xFFFFFF9F#32, fun o => .dmaWrSusp (selChan (opwSel o.opw)) o.data⟩]

/-- R95 rows 32 to 43: triggers, the DMA catch-alls, events, anything else. -/
def rowsRest : List Row :=
  [⟨0xB0000018#32, 0xFFFFFFFF#32, fun o => .dma0WrSt o.data⟩,
   ⟨0xB0000038#32, 0xFFFFFFFF#32, fun o => .dma1WrSt o.data⟩,
   ⟨0xB0000058#32, 0xFFFFFFFF#32, fun o => .dma2WrSt o.data⟩,
   ⟨0xB0000078#32, 0xFFFFFFFF#32, fun o => .dma3WrSt o.data⟩,
   ⟨0x90000000#32, 0xFFFFFF80#32, fun o => .dmaRdRsvd (selChan (opwSel o.opw)) (selLow (opwSel o.opw))⟩,
   ⟨0xB0000000#32, 0xFFFFFF80#32, fun o => .dmaWrRsvd (selChan (opwSel o.opw)) (selLow (opwSel o.opw)) o.data⟩,
   ⟨0x80000000#32, 0xE7FFFF80#32, fun o =>
      .dmaRdBadw (Narrow.ofCode (opwWc o.opw)) (selChan (opwSel o.opw)) (selLow (opwSel o.opw))⟩,
   ⟨0xA0000000#32, 0xE7FFFF80#32, fun o =>
      .dmaWrBadw (Narrow.ofCode (opwWc o.opw)) (selChan (opwSel o.opw)) (selLow (opwSel o.opw)) o.data⟩,
   ⟨0xC0000000#32, 0xFFFFFFFF#32, fun o => .reset o.data⟩,
   ⟨0xC0000001#32, 0xFFFFFFFF#32, fun _ => .rtcTick⟩,
   ⟨0xC0000002#32, 0xFFFFFFFF#32, fun _ => .dma0Done⟩,
   ⟨0x00000000#32, 0x00000000#32, fun o => .opwInvalid o.opw⟩]

/-- The 44 rows of R95 in priority order. -/
def rows (cfg : Config) : List Row :=
  rowsRtc ++ (rowsReg cfg ++ (rowsDmaPlain ++ rowsRest))

/-- R94: the first row that matches is the operation. -/
def decodeRows (o : Op) : List Row → Instr
  | [] => .opwInvalid o.opw
  | r :: rs => if o.opw &&& r.mask = r.mtch then r.build o else decodeRows o rs

/-- The decoder, total on every operation word and data operand (R94). -/
def decode (cfg : Config) (o : Op) : Instr := decodeRows o (rows cfg)

/-- The operation word and data operand of an operation (R91, R92). An ignored data operand is 0 (R90). -/
def encode (cfg : Config) : Instr → Op
  | .rtcRdh w => ⟨opwOf 0#2 0#1 w.code (rtcSel 0#8), 0#32⟩
  | .rtcRdl w => ⟨opwOf 0#2 0#1 w.code (rtcSel 4#8), 0#32⟩
  | .rtcRden w => ⟨opwOf 0#2 0#1 w.code (rtcSel 8#8), 0#32⟩
  | .rtcWrh w data => ⟨opwOf 0#2 1#1 w.code (rtcSel 0#8), data⟩
  | .rtcWrl w data => ⟨opwOf 0#2 1#1 w.code (rtcSel 4#8), data⟩
  | .rtcWren w data => ⟨opwOf 0#2 1#1 w.code (rtcSel 8#8), data⟩
  | .rtcRdinv w off => ⟨opwOf 0#2 0#1 w.code (rtcSel off), 0#32⟩
  | .rtcWrinv w off data => ⟨opwOf 0#2 1#1 w.code (rtcSel off), data⟩
  | .regRd8Rst => ⟨opwOf 1#2 0#1 0#2 cfg.aRst, 0#32⟩
  | .regWr8Rst data => ⟨opwOf 1#2 1#1 0#2 cfg.aRst, data⟩
  | .regRd8Vreg => ⟨opwOf 1#2 0#1 0#2 (Machine.aVreg cfg), 0#32⟩
  | .regWr8Vreg data => ⟨opwOf 1#2 1#1 0#2 (Machine.aVreg cfg), data⟩
  | .regRd16Pair => ⟨opwOf 1#2 0#1 1#2 cfg.aRst, 0#32⟩
  | .regWr16Pair data => ⟨opwOf 1#2 1#1 1#2 cfg.aRst, data⟩
  | .regRdBadw a => ⟨opwOf 1#2 0#1 2#2 a, 0#32⟩
  | .regWrBadw a data => ⟨opwOf 1#2 1#1 2#2 a, data⟩
  | .regRdPass w a => ⟨opwOf 1#2 0#1 w.toWidth.code a, 0#32⟩
  | .regWrPass w a data => ⟨opwOf 1#2 1#1 w.toWidth.code a, data⟩
  | .dmaRdDst c => ⟨opwOf 2#2 0#1 2#2 (dmaSel c 0x00#5), 0#32⟩
  | .dmaRdSrc c => ⟨opwOf 2#2 0#1 2#2 (dmaSel c 0x04#5), 0#32⟩
  | .dmaRdLen c => ⟨opwOf 2#2 0#1 2#2 (dmaSel c 0x08#5), 0#32⟩
  | .dmaRdDir c => ⟨opwOf 2#2 0#1 2#2 (dmaSel c 0x0C#5), 0#32⟩
  | .dmaRdEn c => ⟨opwOf 2#2 0#1 2#2 (dmaSel c 0x14#5), 0#32⟩
  | .dmaRdSt c => ⟨opwOf 2#2 0#1 2#2 (dmaSel c 0x18#5), 0#32⟩
  | .dmaRdSusp c => ⟨opwOf 2#2 0#1 2#2 (dmaSel c 0x1C#5), 0#32⟩
  | .dmaWrDst c data => ⟨opwOf 2#2 1#1 2#2 (dmaSel c 0x00#5), data⟩
  | .dmaWrSrc c data => ⟨opwOf 2#2 1#1 2#2 (dmaSel c 0x04#5), data⟩
  | .dmaWrLen c data => ⟨opwOf 2#2 1#1 2#2 (dmaSel c 0x08#5), data⟩
  | .dmaWrDir c data => ⟨opwOf 2#2 1#1 2#2 (dmaSel c 0x0C#5), data⟩
  | .dmaWrEn c data => ⟨opwOf 2#2 1#1 2#2 (dmaSel c 0x14#5), data⟩
  | .dmaWrSusp c data => ⟨opwOf 2#2 1#1 2#2 (dmaSel c 0x1C#5), data⟩
  | .dma0WrSt data => ⟨opwOf 2#2 1#1 2#2 (dmaSel .ch0 0x18#5), data⟩
  | .dma1WrSt data => ⟨opwOf 2#2 1#1 2#2 (dmaSel .ch1 0x18#5), data⟩
  | .dma2WrSt data => ⟨opwOf 2#2 1#1 2#2 (dmaSel .ch2 0x18#5), data⟩
  | .dma3WrSt data => ⟨opwOf 2#2 1#1 2#2 (dmaSel .ch3 0x18#5), data⟩
  | .dmaRdRsvd c low => ⟨opwOf 2#2 0#1 2#2 (dmaSel c low), 0#32⟩
  | .dmaWrRsvd c low data => ⟨opwOf 2#2 1#1 2#2 (dmaSel c low), data⟩
  | .dmaRdBadw w c low => ⟨opwOf 2#2 0#1 w.toWidth.code (dmaSel c low), 0#32⟩
  | .dmaWrBadw w c low data => ⟨opwOf 2#2 1#1 w.toWidth.code (dmaSel c low), data⟩
  | .reset seed => ⟨opwOf 3#2 0#1 0#2 0#15, seed⟩
  | .rtcTick => ⟨opwOf 3#2 0#1 0#2 1#15, 0#32⟩
  | .dma0Done => ⟨opwOf 3#2 0#1 0#2 2#15, 0#32⟩
  | .opwInvalid w => ⟨w, 0#32⟩

/-- The operation that a number of `nbits` bits spells: bits 31..0 are the operation word and bits 63..32, which the
opcode table gives no row, the data operand. -/
def opOfTableWord (nbits w : Nat) : Op :=
  ⟨BitVec.ofNat 32 (w % 2 ^ nbits), BitVec.ofNat 32 (w % 2 ^ nbits / 2 ^ 32)⟩

/-- What the decoder reads from a word numbered as spec/opcode_table.json numbers it, at the default parameters. -/
def decodeTableWord (nbits w : Nat) : Option Instr :=
  some (decode Machine.defaultConfig (opOfTableWord nbits w))

end Sys2Proof
end

