-- ==== Sys2Proof/Machine/State.lean ====
section
/-! DEFINITION. The state. `Block` is the block's own state, exactly spec/10_state.md R20 (945 bits). `Env` is the state
that the block depends on or drives but does not own (R35, R37; 20_memory R64). `State` adds the interface of
00_scope R9 and R10: the operations offered, the output trace, the read result; and the configuration. -/

namespace Sys2Proof.Machine

/-- The seven registers of a DMA channel (10_state R25 to R32). -/
structure Channel where
  /-- `DST[c]`, R27 -/
  dst : Word
  /-- `SRC[c]`, R26 -/
  src : Word
  /-- `LEN[c]`, R28: bit 31 = RPT, bits 30:0 = CNT -/
  len : Word
  /-- `DIR[c]`, R29: bit 0 = SWAP -/
  dir : Word
  /-- `EN[c]`, R30: bit 0 = E -/
  en : Word
  /-- `ST[c]`, R31: bit 0 = BUSY -/
  st : Word
  /-- `SUSP[c]`, R32: channel 0 has the suspend indicator -/
  susp : Word
  deriving DecidableEq, Repr

/-- The complete state of the block (10_state R20). -/
structure Block where
  /-- `rtc`, R21 -/
  rtc : Word
  /-- `rtc_en`, R22 -/
  rtcEn : Bool
  /-- `ARMRST`, R23 -/
  armrst : Byte
  /-- `VREG`, R24 -/
  vreg : Byte
  /-- the primary channel -/
  ch0 : Channel
  /-- the first general-purpose extension channel -/
  ch1 : Channel
  /-- the second general-purpose extension channel -/
  ch2 : Channel
  /-- the device channel -/
  ch3 : Channel
  deriving DecidableEq, Repr

/-- The scheduler handles (00_scope R7): two distinct opaque identities, so two names without a number. -/
inductive Handle where
  /-- `H_RTC` -/
  | rtc
  /-- `H_DMA0` -/
  | dma0
  deriving DecidableEq, Repr

/-- The interrupt identities `INT_DMA[c]` (00_scope R7): four distinct opaque constants, named by their channel. -/
structure IntId where
  dma : Chan
  deriving DecidableEq, Repr

/-- A value of a forwarded REG access, with its width (20_memory R76: `8 * w` bits). -/
inductive RegVal where
  | byte (v : Byte)
  | half (v : Half)
  deriving DecidableEq, Repr

/-- The diagnostics (60_exceptions R231), each with what it records. -/
inductive Diag where
  /-- RTC_INVALID_READ -/
  | rtcInvalidRead (off : BitVec 8)
  /-- RTC_INVALID_WRITE -/
  | rtcInvalidWrite (off : BitVec 8) (data : Word)
  /-- REG_INVALID_WIDTH_READ -/
  | regInvalidWidthRead (a : RegAddr) (w : Width)
  /-- REG_INVALID_WIDTH_WRITE -/
  | regInvalidWidthWrite (a : RegAddr) (w : Width) (data : Word)
  /-- DMA_INVALID_REG_READ -/
  | dmaInvalidRegRead (c : Chan) (low : BitVec 5)
  /-- DMA_INVALID_REG_WRITE -/
  | dmaInvalidRegWrite (c : Chan) (low : BitVec 5) (data : Word)
  /-- DMA_INVALID_WIDTH_READ -/
  | dmaInvalidWidthRead (c : Chan) (low : BitVec 5) (w : Width)
  /-- DMA_INVALID_WIDTH_WRITE -/
  | dmaInvalidWidthWrite (c : Chan) (low : BitVec 5) (w : Width) (data : Word)
  deriving DecidableEq, Repr

/-- The informational log entries (60_exceptions R241). -/
inductive LogEntry where
  /-- VREG_WRITE (41 R154) -/
  | vregWrite (vreg : Byte)
  /-- VREG_ARMRST_WRITE (41 R156) -/
  | vregArmrstWrite (vreg armrst : Byte)
  /-- DMA_XFER (42 R203): the channel, the direction bit, and the move's destination, source and count -/
  | dmaXfer (c : Chan) (swapped : Bool) (dst src len : Word)
  deriving DecidableEq, Repr

/-- The output events (00_scope R9), one constructor per collaborator primitive. -/
inductive Event where
  | move (dst src len : Word)
  | raiseInt (id : IntId)
  | copSetEnabled (enabled : Bool)
  | schedRequest (h : Handle) (delta : Nat)
  | extWrite (a : RegAddr) (v : RegVal)
  | extRead (a : RegAddr) (v : RegVal)
  | diag (d : Diag)
  | log (l : LogEntry)
  deriving DecidableEq, Repr

/-- The flat memory's determined bytes (20_memory R60, R64), by address. DESIGN CHOICE, safe: an address that is not
listed has no determined byte. -/
abbrev Memory := List Host.Cell

/-- The canonical form: addresses strictly rising, all in the flat address space of 2^32 bytes. -/
abbrev Memory.wf (m : Memory) : Prop :=
  m.Pairwise (fun x y => x.1 < y.1) ∧ ∀ x ∈ m, x.1 < 2 ^ 32

/-- The state outside the block that its operations act on. -/
structure Env where
  /-- the flat memory (20_memory R64) -/
  mem : Memory
  /-- `arm[H_DMA0]`, the outstanding deltas, oldest first (10_state R35) -/
  armDma0 : List Nat
  /-- `arm[H_RTC]` (10_state R35(c)) -/
  armRtc : List Nat
  /-- the co-processor's enabled state as the block last drove it; none: not driven yet (10_state R37, 60 R240) -/
  copEnabled : Option Bool
  /-- the answers of the external register file to the next forwarded reads, an input (00_scope R6(e)) -/
  extAnswers : List Half
  /-- the MODEL's own: how many free values have been drawn (93 U9) -/
  draws : Nat
  deriving DecidableEq, Repr

/-- The machine's state. -/
structure State where
  /-- the block's own state (10_state R20) -/
  blk : Block
  /-- the state the block does not own -/
  env : Env
  /-- the configuration (00_scope R7); no step writes it -/
  cfg : Config
  /-- the operations offered to the block and not yet taken, in the total order of 00_scope R5 -/
  pending : List Op
  /-- the output trace, oldest event first (00_scope R9) -/
  trace : List Event
  /-- the result of the latest operation if it was a read (00_scope R10, R11) -/
  rv : Option Word
  deriving DecidableEq, Repr

/-- The block raises no exception in any state for any operation (60_exceptions R230; 00_scope R12: "there is no fault
outcome"), so there is no fault to name. -/
inductive Fault where
  deriving DecidableEq, Repr

/-- Why a step can be refused. -/
inductive Refusal where
  /-- raised by an arm of `exec` for an instruction without a meaning; safe. No arm raises it now. -/
  | notModelled (mnemonic : String)
  /-- raised by OPW.INVALID on every path (30_encoding R96(b): "the model refuses them"); safe -/
  | invalidOperationWord (opw : Word)
  /-- raised by `step` when no operation is offered and no completion is outstanding (the block has no instruction stream,
  10_state R36). DESIGN CHOICE (log entry 21): the model calls such a run over; safe -/
  | noOperationOffered
  /-- raised by `step` when no operation is offered but `arm[H_DMA0]` is non-empty: the run is not over (10_state R35(d)),
  the environment still owes a DMA0.DONE; safe -/
  | completionOutstanding
  deriving DecidableEq, Repr

/-- A channel after RESET (10_state R37). -/
def channelAtReset : Channel where
  dst := 0
  src := 0
  len := 0
  dir := 0
  en := 0
  st := 0
  susp := 0

/-- The machine after initialisation (70_reset_and_hazards R261): RESET with a seed under no law (10_state R37, 92 D31),
nothing armed on H_DMA0, the tick armed. -/
def State.reset : State where
  blk :=
    { rtc := Config.bootSeed
      rtcEn := false
      armrst := 0
      vreg := 0
      ch0 := channelAtReset
      ch1 := channelAtReset
      ch2 := channelAtReset
      ch3 := channelAtReset }
  env :=
    { mem := []
      armDma0 := []
      armRtc := [rtcTickDelta defaultConfig]
      copEnabled := none
      extAnswers := []
      draws := 0 }
  cfg := defaultConfig
  pending := []
  trace := []
  rv := none

end Sys2Proof.Machine
end

