-- ==== Sys2Proof/Machine/Flags.lean ====
section
/-! DEFINITION. The status bits that play the part of flags (spec/10_state.md R36): what each reads as and how the
engine sets and clears the one it writes. -/

namespace Sys2Proof.Machine

/-- `v[0]`. -/
def bit0 (v : Word) : Bool := v.getLsbD 0

/-- `EN[c][0]` (10_state R30): a trigger write starts a transfer. -/
def Channel.enabled (r : Channel) : Bool := bit0 r.en

/-- `ST[c][0]` (10_state R31): the channel is Completion-Pending (R34). -/
def Channel.busy (r : Channel) : Bool := bit0 r.st

/-- `DIR[c][0]` (10_state R29): the move's source and destination are swapped. -/
def Channel.swapped (r : Channel) : Bool := bit0 r.dir

/-- `LEN[c][31]` (10_state R28): completion leaves `EN[c]` as it is. -/
def Channel.autoRepeat (r : Channel) : Bool := r.len.getLsbD 31

/-- `CopEnabled(v) = (v[0] = 0)` (41_reset_latch_decoder R161). -/
def copEnabledBy (v : Byte) : Bool := !v.getLsbD 0

/-- The engine sets the suspend indicator at a completion of channel 0 (10_state R32). -/
def setIndicator (cfg : Config) (susp : Word) : Word := susp ||| cfg.suspInd

/-- The engine clears the suspend indicator when channel 0 defers a completion (10_state R32). -/
def clearIndicator (cfg : Config) (susp : Word) : Word := susp &&& ~~~cfg.suspInd

end Sys2Proof.Machine
end

