-- ==== Sys2Proof/Machine/Operands.lean ====
section
/-! DEFINITION. The operands: which bits of the data operand a write uses and how a read's value is extended
(spec/20_memory.md R67, R76; 30_encoding R93), the RTC halves (10_state R21), a transfer's operands (42_dma R199) and
its duration (R201). -/

namespace Sys2Proof.Machine

/-- `data[7:0]`. -/
def dataLowByte (data : Word) : Byte := data.extractLsb' 0 8

/-- `data[15:8]`. -/
def dataHighByte (data : Word) : Byte := data.extractLsb' 8 8

/-- `data[15:0]`. -/
def dataHalf (data : Word) : Half := data.extractLsb' 0 16

/-- `zext_32` of a byte (20_memory R67). -/
def zextByte (v : Byte) : Word := v.setWidth 32

/-- `zext_32` of a 16-bit value (20_memory R67). -/
def zextHalf (v : Half) : Word := v.setWidth 32

/-- `rtc[31:16]` (10_state R21). -/
def rtcHigh (rtc : Word) : Half := rtc.extractLsb' 16 16

/-- `rtc[15:0]` (10_state R21). -/
def rtcLow (rtc : Word) : Half := rtc.extractLsb' 0 16

/-- The counter with the high and low halves given: `hi ++ lo`, the first in the high bits (00_scope R8). -/
def rtcOf (hi lo : Half) : Word := hi.setWidth 32 <<< 16 ||| lo.setWidth 32

/-- The pair: VREG in the high byte, ARMRST in the low byte (20_memory R65). -/
def pairOf (vreg armrst : Byte) : Half := vreg.setWidth 16 <<< 8 ||| armrst.setWidth 16

/-- A 16-bit value cut to the width of a forwarded access (20_memory R76). -/
def RegVal.ofHalf (w : Narrow) (v : Half) : RegVal :=
  match w with
  | .one => .byte (v.extractLsb' 0 8)
  | .two => .half v

/-- The value a forwarded read returns: zero-extended to 32 bits (20_memory R76). -/
def RegVal.zext : RegVal → Word
  | .byte v => zextByte v
  | .half v => zextHalf v

/-- The byte count `zext_32(LEN[c][30:0])` (10_state R28, 42_dma R199). -/
def Channel.count (r : Channel) : Word := (r.len.extractLsb' 0 31).setWidth 32

/-- The move's destination in `Operands(c)` (42_dma R199). -/
def Channel.moveDst (r : Channel) : Word := if r.swapped then r.src else r.dst

/-- The move's source in `Operands(c)` (42_dma R199). -/
def Channel.moveSrc (r : Channel) : Word := if r.swapped then r.dst else r.src

/-- `Cycles(n)`, the primary channel's duration (42_dma R201): a natural number, no overflow. -/
def cycles (cfg : Config) (n : Word) : Nat := n.toNat * cyclesPerByte cfg

/-- Whether a primary transfer of `n` bytes completes inline (42_dma R202). -/
def inlineTransfer (cfg : Config) (n : Word) : Bool := decide (cycles cfg n < tInline)

end Sys2Proof.Machine
end

