-- ==== Sys2Proof/Machine/Ops.lean ====
section
/-! DEFINITION. The named operations over the flat memory, the environment, the channels and the trace; and `complete`,
the shared end of every transfer (spec/42_dma.md R200), which is the nearest thing this block has to taking an exception:
it settles the channel's registers and raises the channel's interrupt (60_exceptions R235). There is no return from one
(R236). -/

namespace Sys2Proof.Machine

/-! ### The flat memory -/

/-- The byte at an address; none where no byte is determined. -/
def Memory.read : Memory → Nat → Option Byte
  | [], _ => none
  | (k, v) :: m, a => if k = a then some v else Memory.read m a

/-- Store one byte, keeping the canonical form. -/
def Memory.write (a : Nat) (b : Byte) : Memory → Memory
  | [] => [(a, b)]
  | (k, v) :: m =>
    if a < k then (a, b) :: (k, v) :: m
    else if a = k then (a, b) :: m
    else (k, v) :: Memory.write a b m

/-- Whether address `a` is one of `(base + i) mod 2^32`, `i` in `0 .. n-1` (20_memory R64). -/
def inRange (base n : Word) (a : Nat) : Bool := decide ((BitVec.ofNat 32 a - base).toNat < n.toNat)

/-- The whole range has memory behind it, in one region, and does not wrap past the top (20_memory R77, 92 D24). -/
def rangeBacked (ram : List Region) (base n : Word) : Bool :=
  decide (base.toNat + n.toNat ≤ 2 ^ 32)
    && ram.any fun r => decide (r.base ≤ base.toNat) && decide (base.toNat + n.toNat ≤ r.base + r.size)

/-- The domain of the move primitive's reference semantics (20_memory R64, R77, 92 D24): disjoint, non-wrapping ranges
over backed memory. -/
def moveStated (ram : List Region) (dst src n : Word) : Bool :=
  rangeBacked ram dst n && rangeBacked ram src n
    && (decide (dst.toNat + n.toNat ≤ src.toNat) || decide (src.toNat + n.toNat ≤ dst.toNat))

/-- The memory with no byte determined in the destination range. -/
def Memory.erase (dst n : Word) (m : Memory) : Memory := m.filter fun x => !inRange dst n x.1

/-- The determined bytes of the source range, each at its place in the destination range. -/
def Memory.copied (dst src n : Word) (m : Memory) : List Host.Cell :=
  m.filterMap fun x =>
    if inRange src n x.1 then some ((BitVec.ofNat 32 x.1 - src + dst).toNat, x.2) else none

/-- The move primitive (20_memory R64): `M'[(d + i) mod 2^32] = M[(s + i) mod 2^32]`, all reads before all writes, every
other byte unchanged. Outside its stated domain (R77, 93 U5: "any value") no byte of the destination range stays
determined. DESIGN CHOICE, safe: an undetermined source byte leaves its destination byte undetermined. -/
def Memory.move (ram : List Region) (dst src n : Word) (m : Memory) : Memory :=
  if moveStated ram dst src n then
    (m.copied dst src n).foldr (fun x acc => acc.write x.1 x.2) (m.erase dst n)
  else m.erase dst n

/-! ### The external collaborators and the output trace -/

/-- A request on a handle with outstanding deltas `arm` (10_state R35; `sched_rearm`, 92 D22). -/
def armed (cfg : Config) (arm : List Nat) (delta : Nat) : List Nat :=
  match cfg.schedRearm with
  | .replace => [delta]
  | .queue => arm ++ [delta]

/-- What an event does to the state that the block does not own (00_scope R9). -/
def Env.react (cfg : Config) (e : Event) (env : Env) : Env :=
  match e with
  | .move dst src len => { env with mem := env.mem.move cfg.ram dst src len }
  | .raiseInt _ => env
  | .copSetEnabled b => { env with copEnabled := some b }
  | .schedRequest .rtc delta => { env with armRtc := armed cfg env.armRtc delta }
  | .schedRequest .dma0 delta => { env with armDma0 := armed cfg env.armDma0 delta }
  | .extWrite _ _ => env
  | .extRead _ _ => env
  | .diag _ => env
  | .log _ => env

/-- What any reader of the flat memory sees at an address, an instruction fetch of a processor that fetches from it
included: the memory of the latest step. A Move is an ordinary write to that memory, so it is seen at once (20_memory R75,
R71(b), 92 D24). -/
def State.memByte (s : State) (a : Nat) : Option Byte := s.env.mem.read a

/-- `emit E` (00_scope R11): append the event to the trace; its collaborator consumes it. -/
def State.emit (e : Event) (s : State) : State :=
  { s with trace := s.trace ++ [e], env := s.env.react s.cfg e }

/-- `return v` (00_scope R11): the operation's read result. -/
def State.returning (v : Word) (s : State) : State := { s with rv := some v }

/-- The operation returns nothing. -/
def State.done (s : State) : State := { s with rv := none }

/-- The scheduler's delivery of a request on H_DMA0 removes one entry (10_state R35(a)). -/
def State.deliverDma0 (s : State) : State :=
  { s with env := { s.env with armDma0 := s.env.armDma0.tail } }

/-- The scheduler's delivery of the tick removes one entry of `arm[H_RTC]`. -/
def State.deliverRtc (s : State) : State :=
  { s with env := { s.env with armRtc := s.env.armRtc.tail } }

/-- The external register file's next answer (20_memory R76): the next one listed, else a free value. -/
def Env.nextAnswer (env : Env) : Half :=
  match env.extAnswers with
  | v :: _ => v
  | [] => Config.freeAnswer env.draws

/-- The environment once that answer is taken. -/
def Env.afterAnswer (env : Env) : Env :=
  match env.extAnswers with
  | _ :: rest => { env with extAnswers := rest }
  | [] => { env with draws := env.draws + 1 }

/-! ### The end of a run -/

/-- A run in which `arm[H_DMA0]` is non-empty is not over (10_state R35(d)). DESIGN CHOICE (log entry 21): with none
outstanding and no operation offered the model calls it over, although H_RTC stays armed and ticks come without end
(R35(c)); the spec does not say when a run IS over. -/
def State.runOver (s : State) : Bool := s.pending.isEmpty && s.env.armDma0.isEmpty

/-- Why there is no step when no operation is offered. -/
def State.idleRefusal (s : State) : Refusal :=
  if s.env.armDma0.isEmpty then .noOperationOffered else .completionOutstanding

/-! ### The channels -/

/-- The registers of channel `c`. -/
def Block.chan (b : Block) : Chan → Channel
  | .ch0 => b.ch0
  | .ch1 => b.ch1
  | .ch2 => b.ch2
  | .ch3 => b.ch3

/-- The block with the registers of channel `c` replaced. -/
def Block.setChan (b : Block) (c : Chan) (r : Channel) : Block :=
  match c with
  | .ch0 => { b with ch0 := r }
  | .ch1 => { b with ch1 := r }
  | .ch2 => { b with ch2 := r }
  | .ch3 => { b with ch3 := r }

/-- The registers of channel `c`. -/
def State.chan (s : State) (c : Chan) : Channel := s.blk.chan c

/-- The state with the registers of channel `c` replaced. -/
def State.setChan (s : State) (c : Chan) (r : Channel) : State := { s with blk := s.blk.setChan c r }

/-- The registers that `Complete(c)` leaves (42_dma R200, steps 4 to 6). -/
def Channel.completed (cfg : Config) (c : Chan) (r : Channel) : Channel :=
  { r with
    en := if r.autoRepeat then r.en else 0#32
    src := r.src + r.count
    dst := r.dst + r.count
    st := 0#32
    len := 0#32
    susp := if c = .ch0 then setIndicator cfg r.susp else r.susp }

/-- `Complete(c)` (42_dma R200): the registers, then the channel's interrupt. -/
def State.complete (s : State) (c : Chan) : State :=
  (s.setChan c ((s.chan c).completed s.cfg c)).emit (.raiseInt ⟨c⟩)

/-- The trigger condition (42_dma R198): `data[0] = 1` and `EN[c][0] = 1`. -/
def State.triggers (s : State) (c : Chan) (data : Word) : Bool := bit0 data && (s.chan c).enabled

/-- The move of a triggered transfer (42_dma R199, step 3 of the contract). -/
def State.emitMove (s : State) (c : Chan) : State :=
  s.emit (.move (s.chan c).moveDst (s.chan c).moveSrc (s.chan c).count)

/-- The transfer log of a general-purpose channel (42_dma R203). -/
def State.emitXferLog (s : State) (c : Chan) : State :=
  s.emit (.log (.dmaXfer c (s.chan c).swapped (s.chan c).moveDst (s.chan c).moveSrc (s.chan c).count))

/-- `GPTrigger(c)` (42_dma R203): log, move and complete at once, whatever the length. -/
def State.gpTrigger (s : State) (c : Chan) (data : Word) : State :=
  if s.triggers c data then ((s.emitXferLog c).emitMove c).complete c else s

/-- The primary channel defers its completion (42_dma R202): busy, indicator cleared, callback requested. -/
def State.defer (s : State) : State :=
  (s.setChan .ch0 { s.chan .ch0 with st := 1#32, susp := clearIndicator s.cfg (s.chan .ch0).susp }).emit
    (.schedRequest .dma0 (cycles s.cfg (s.chan .ch0).count))

/-- The primary channel's trigger (42_dma R202). -/
def State.primaryTrigger (s : State) (data : Word) : State :=
  if s.triggers .ch0 data then
    if inlineTransfer s.cfg (s.chan .ch0).count then (s.emitMove .ch0).complete .ch0
    else (s.emitMove .ch0).defer
  else s

/-! ### The reset latch and RESET -/

/-- Every write of ARMRST ends with `emit CopSetEnabled(CopEnabled(ARMRST))`, on the value just stored (41 R161). -/
def State.emitCopEnable (s : State) : State := s.emit (.copSetEnabled (copEnabledBy s.blk.armrst))

/-- A channel with every register zero. -/
def zeroChannel : Channel := ⟨0#32, 0#32, 0#32, 0#32, 0#32, 0#32, 0#32⟩

/-- The block after `RESET(seed)` (70_reset_and_hazards R260). -/
def resetBlock (seed : Word) : Block where
  rtc := seed
  rtcEn := false
  armrst := 0#8
  vreg := 0#8
  ch0 := zeroChannel
  ch1 := zeroChannel
  ch2 := zeroChannel
  ch3 := zeroChannel

end Sys2Proof.Machine
end

