-- ==== Sys2Proof/Machine/Dma.lean ====
section
/-! DEFINITION. The DMA register file, the triggers and the deferred completion (spec/42_dma.md). -/

namespace Sys2Proof.Machine

/-- 42_dma R181 -/
def execDmaRdDst (c : Chan) (s : State) : Host.Outcome State Fault Refusal := .next (s.returning (s.chan c).dst)

/-- 42_dma R182 -/
def execDmaRdSrc (c : Chan) (s : State) : Host.Outcome State Fault Refusal := .next (s.returning (s.chan c).src)

/-- 42_dma R183 -/
def execDmaRdLen (c : Chan) (s : State) : Host.Outcome State Fault Refusal := .next (s.returning (s.chan c).len)

/-- 42_dma R184 -/
def execDmaRdDir (c : Chan) (s : State) : Host.Outcome State Fault Refusal := .next (s.returning (s.chan c).dir)

/-- 42_dma R185 -/
def execDmaRdEn (c : Chan) (s : State) : Host.Outcome State Fault Refusal := .next (s.returning (s.chan c).en)

/-- 42_dma R186 -/
def execDmaRdSt (c : Chan) (s : State) : Host.Outcome State Fault Refusal := .next (s.returning (s.chan c).st)

/-- 42_dma R187 -/
def execDmaRdSusp (c : Chan) (s : State) : Host.Outcome State Fault Refusal := .next (s.returning (s.chan c).susp)

/-- 42_dma R188 -/
def execDmaWrDst (c : Chan) (data : Word) (s : State) : Host.Outcome State Fault Refusal :=
  .next (s.setChan c { s.chan c with dst := data }).done

/-- 42_dma R189 -/
def execDmaWrSrc (c : Chan) (data : Word) (s : State) : Host.Outcome State Fault Refusal :=
  .next (s.setChan c { s.chan c with src := data }).done

/-- 42_dma R190 -/
def execDmaWrLen (c : Chan) (data : Word) (s : State) : Host.Outcome State Fault Refusal :=
  .next (s.setChan c { s.chan c with len := data }).done

/-- 42_dma R191 -/
def execDmaWrDir (c : Chan) (data : Word) (s : State) : Host.Outcome State Fault Refusal :=
  .next (s.setChan c { s.chan c with dir := data }).done

/-- 42_dma R192 -/
def execDmaWrEn (c : Chan) (data : Word) (s : State) : Host.Outcome State Fault Refusal :=
  .next (s.setChan c { s.chan c with en := data }).done

/-- 42_dma R193 -/
def execDmaWrSusp (c : Chan) (data : Word) (s : State) : Host.Outcome State Fault Refusal :=
  .next (s.setChan c { s.chan c with susp := data }).done

/-- 42_dma R202 -/
def execDma0WrSt (data : Word) (s : State) : Host.Outcome State Fault Refusal := .next (s.primaryTrigger data).done

/-- 42_dma R204 -/
def execDma1WrSt (data : Word) (s : State) : Host.Outcome State Fault Refusal := .next (s.gpTrigger .ch1 data).done

/-- 42_dma R205 -/
def execDma2WrSt (data : Word) (s : State) : Host.Outcome State Fault Refusal := .next (s.gpTrigger .ch2 data).done

/-- 42_dma R206 -/
def execDma3WrSt (data : Word) (s : State) : Host.Outcome State Fault Refusal := .next (s.gpTrigger .ch3 data).done

/-- 42_dma R194 -/
def execDmaRdRsvd (c : Chan) (low : BitVec 5) (s : State) : Host.Outcome State Fault Refusal :=
  .next ((s.emit (.diag (.dmaInvalidRegRead c low))).returning 0#32)

/-- 42_dma R195 -/
def execDmaWrRsvd (c : Chan) (low : BitVec 5) (data : Word) (s : State) : Host.Outcome State Fault Refusal :=
  .next (s.emit (.diag (.dmaInvalidRegWrite c low data))).done

/-- 42_dma R196 -/
def execDmaRdBadw (w : Narrow) (c : Chan) (low : BitVec 5) (s : State) : Host.Outcome State Fault Refusal :=
  .next ((s.emit (.diag (.dmaInvalidWidthRead c low w.toWidth))).returning 0#32)

/-- 42_dma R197 -/
def execDmaWrBadw (w : Narrow) (c : Chan) (low : BitVec 5) (data : Word) (s : State) :
    Host.Outcome State Fault Refusal :=
  .next (s.emit (.diag (.dmaInvalidWidthWrite c low w.toWidth data))).done

/-- 42_dma R207: the delivery takes the armed request away (10_state R35(a)); the guard reads `ST[0][0]` -/
def execDma0Done (s : State) : Host.Outcome State Fault Refusal :=
  .next (if (s.chan .ch0).busy then s.deliverDma0.complete .ch0 else s.deliverDma0).done

end Sys2Proof.Machine
end

