-- ==== Sys2Proof/Machine/Events.lean ====
section
/-! DEFINITION. RESET (spec/70_reset_and_hazards.md R260) and the verdict OPW.INVALID (spec/30_encoding.md R96(b)). -/

namespace Sys2Proof.Machine

/-- 70_reset_and_hazards R260: everything in the block is written, nothing outside it is touched, no event -/
def execReset (seed : Word) (s : State) : Host.Outcome State Fault Refusal :=
  .next (State.done { s with blk := resetBlock seed })

/-- 30_encoding R96(b): not an access to the hardware at all; the model refuses it (safe) -/
def execOpwInvalid (opw : Word) (_ : State) : Host.Outcome State Fault Refusal :=
  .refused (.invalidOperationWord opw)

end Sys2Proof.Machine
end

