-- ==== Sys2Proof/Machine/Reg.lean ====
section
/-! DEFINITION. The reset latch, VREG, the pair and the pass-through decoder (spec/41_reset_latch_decoder.md). -/

namespace Sys2Proof.Machine

/-- 41 R151 -/
def execRegRd8Rst (s : State) : Host.Outcome State Fault Refusal :=
  .next (s.returning (zextByte s.blk.armrst))

/-- 41 R152 -/
def execRegWr8Rst (data : Word) (s : State) : Host.Outcome State Fault Refusal :=
  .next (State.emitCopEnable { s with blk := { s.blk with armrst := dataLowByte data } }).done

/-- 41 R153 -/
def execRegRd8Vreg (s : State) : Host.Outcome State Fault Refusal :=
  .next (s.returning (zextByte s.blk.vreg))

/-- 41 R154 -/
def execRegWr8Vreg (data : Word) (s : State) : Host.Outcome State Fault Refusal :=
  .next (State.emit (.log (.vregWrite (dataLowByte data)))
    { s with blk := { s.blk with vreg := dataLowByte data } }).done

/-- 41 R155 -/
def execRegRd16Pair (s : State) : Host.Outcome State Fault Refusal :=
  .next (s.returning (zextHalf (pairOf s.blk.vreg s.blk.armrst)))

/-- 41 R156: VREG and ARMRST, then the log, then the enable function -/
def execRegWr16Pair (data : Word) (s : State) : Host.Outcome State Fault Refusal :=
  .next (State.emitCopEnable (State.emit (.log (.vregArmrstWrite (dataHighByte data) (dataLowByte data)))
    { s with blk := { s.blk with vreg := dataHighByte data, armrst := dataLowByte data } })).done

/-- 41 R157: the value is the external register file's, cut to the width and zero-extended -/
def execRegRdPass (w : Narrow) (a : RegAddr) (s : State) : Host.Outcome State Fault Refusal :=
  .next ((State.emit (.extRead a (RegVal.ofHalf w s.env.nextAnswer)) { s with env := s.env.afterAnswer }).returning
    (RegVal.ofHalf w s.env.nextAnswer).zext)

/-- 41 R158 -/
def execRegWrPass (w : Narrow) (a : RegAddr) (data : Word) (s : State) : Host.Outcome State Fault Refusal :=
  .next (s.emit (.extWrite a (RegVal.ofHalf w (dataHalf data)))).done

/-- 41 R159 -/
def execRegRdBadw (a : RegAddr) (s : State) : Host.Outcome State Fault Refusal :=
  .next ((s.emit (.diag (.regInvalidWidthRead a .b4))).returning 0#32)

/-- 41 R160 -/
def execRegWrBadw (a : RegAddr) (data : Word) (s : State) : Host.Outcome State Fault Refusal :=
  .next (s.emit (.diag (.regInvalidWidthWrite a .b4 data))).done

end Sys2Proof.Machine
end

