-- ==== Sys2Proof/Machine/Rtc.lean ====
section
/-! DEFINITION. The RTC register file, the tick and the time source's formula (spec/40_rtc.md). The access width is
ignored by every RTC operation (92 D9). -/

namespace Sys2Proof.Machine

/-- 40_rtc R120 -/
def execRtcRdh (_ : Width) (s : State) : Host.Outcome State Fault Refusal :=
  .next (s.returning (zextHalf (rtcHigh s.blk.rtc)))

/-- 40_rtc R121 -/
def execRtcRdl (_ : Width) (s : State) : Host.Outcome State Fault Refusal :=
  .next (s.returning (zextHalf (rtcLow s.blk.rtc)))

/-- 40_rtc R122: 0 whether the latch is set or not -/
def execRtcRden (_ : Width) (s : State) : Host.Outcome State Fault Refusal :=
  .next (s.returning 0#32)

/-- 40_rtc R123 -/
def execRtcRdinv (_ : Width) (off : BitVec 8) (s : State) : Host.Outcome State Fault Refusal :=
  .next ((s.emit (.diag (.rtcInvalidRead off))).returning 0#32)

/-- 40_rtc R124: applied only while armed, and closes the window -/
def execRtcWrh (_ : Width) (data : Word) (s : State) : Host.Outcome State Fault Refusal :=
  .next (if s.blk.rtcEn then
      State.done { s with blk := { s.blk with rtc := rtcOf (dataHalf data) (rtcLow s.blk.rtc), rtcEn := false } }
    else s.done)

/-- 40_rtc R125: applied only while armed, and leaves the window open -/
def execRtcWrl (_ : Width) (data : Word) (s : State) : Host.Outcome State Fault Refusal :=
  .next (if s.blk.rtcEn then
      State.done { s with blk := { s.blk with rtc := rtcOf (rtcHigh s.blk.rtc) (dataHalf data) } }
    else s.done)

/-- 40_rtc R126 -/
def execRtcWren (_ : Width) (data : Word) (s : State) : Host.Outcome State Fault Refusal :=
  .next (State.done { s with blk := { s.blk with rtcEn := bit0 data } })

/-- 40_rtc R127 -/
def execRtcWrinv (_ : Width) (off : BitVec 8) (data : Word) (s : State) : Host.Outcome State Fault Refusal :=
  .next (s.emit (.diag (.rtcInvalidWrite off data))).done

/-- 40_rtc R128: the tick looks at nothing else and arms the next one; its delivery takes the armed request away -/
def execRtcTick (s : State) : Host.Outcome State Fault Refusal :=
  .next (State.done (State.emit (.schedRequest .rtc (rtcTickDelta s.cfg))
    (State.deliverRtc { s with blk := { s.blk with rtc := s.blk.rtc + 1#32 } })))

/-- 40_rtc R130: the seed the time source computes; for the block it is only RESET's operand -/
def timeSourceSeed (cfg : Config) (unixNow : Nat) (tzBias : Int) : Word :=
  BitVec.ofInt 32 ((unixNow : Int) + (cfg.rtcEpochOffset : Int) + tzBias)

end Sys2Proof.Machine
end

