-- ==== Sys2Proof/Machine/Dispatch.lean ====
section
/-! DEFINITION. The meaning of every operation, one arm per constructor of `Instr`. -/

namespace Sys2Proof.Machine

def exec (i : Instr) (s : State) : Host.Outcome State Fault Refusal :=
  match i with
  | .rtcRdh w => Sys2Proof.Machine.execRtcRdh w s
  | .rtcRdl w => Sys2Proof.Machine.execRtcRdl w s
  | .rtcRden w => Sys2Proof.Machine.execRtcRden w s
  | .rtcWrh w data => Sys2Proof.Machine.execRtcWrh w data s
  | .rtcWrl w data => Sys2Proof.Machine.execRtcWrl w data s
  | .rtcWren w data => Sys2Proof.Machine.execRtcWren w data s
  | .rtcRdinv w off => Sys2Proof.Machine.execRtcRdinv w off s
  | .rtcWrinv w off data => Sys2Proof.Machine.execRtcWrinv w off data s
  | .regRd8Rst => Sys2Proof.Machine.execRegRd8Rst s
  | .regWr8Rst data => Sys2Proof.Machine.execRegWr8Rst data s
  | .regRd8Vreg => Sys2Proof.Machine.execRegRd8Vreg s
  | .regWr8Vreg data => Sys2Proof.Machine.execRegWr8Vreg data s
  | .regRd16Pair => Sys2Proof.Machine.execRegRd16Pair s
  | .regWr16Pair data => Sys2Proof.Machine.execRegWr16Pair data s
  | .regRdBadw a => Sys2Proof.Machine.execRegRdBadw a s
  | .regWrBadw a data => Sys2Proof.Machine.execRegWrBadw a data s
  | .regRdPass w a => Sys2Proof.Machine.execRegRdPass w a s
  | .regWrPass w a data => Sys2Proof.Machine.execRegWrPass w a data s
  | .dmaRdDst c => Sys2Proof.Machine.execDmaRdDst c s
  | .dmaRdSrc c => Sys2Proof.Machine.execDmaRdSrc c s
  | .dmaRdLen c => Sys2Proof.Machine.execDmaRdLen c s
  | .dmaRdDir c => Sys2Proof.Machine.execDmaRdDir c s
  | .dmaRdEn c => Sys2Proof.Machine.execDmaRdEn c s
  | .dmaRdSt c => Sys2Proof.Machine.execDmaRdSt c s
  | .dmaRdSusp c => Sys2Proof.Machine.execDmaRdSusp c s
  | .dmaWrDst c data => Sys2Proof.Machine.execDmaWrDst c data s
  | .dmaWrSrc c data => Sys2Proof.Machine.execDmaWrSrc c data s
  | .dmaWrLen c data => Sys2Proof.Machine.execDmaWrLen c data s
  | .dmaWrDir c data => Sys2Proof.Machine.execDmaWrDir c data s
  | .dmaWrEn c data => Sys2Proof.Machine.execDmaWrEn c data s
  | .dmaWrSusp c data => Sys2Proof.Machine.execDmaWrSusp c data s
  | .dma0WrSt data => Sys2Proof.Machine.execDma0WrSt data s
  | .dma1WrSt data => Sys2Proof.Machine.execDma1WrSt data s
  | .dma2WrSt data => Sys2Proof.Machine.execDma2WrSt data s
  | .dma3WrSt data => Sys2Proof.Machine.execDma3WrSt data s
  | .dmaRdRsvd c low => Sys2Proof.Machine.execDmaRdRsvd c low s
  | .dmaWrRsvd c low data => Sys2Proof.Machine.execDmaWrRsvd c low data s
  | .dmaRdBadw w c low => Sys2Proof.Machine.execDmaRdBadw w c low s
  | .dmaWrBadw w c low data => Sys2Proof.Machine.execDmaWrBadw w c low data s
  | .reset seed => Sys2Proof.Machine.execReset seed s
  | .rtcTick => Sys2Proof.Machine.execRtcTick s
  | .dma0Done => Sys2Proof.Machine.execDma0Done s
  | .opwInvalid opw => Sys2Proof.Machine.execOpwInvalid opw s

end Sys2Proof.Machine
end

