-- ==== Sys2Proof/Machine/Step.lean ====
section
/-! DEFINITION. One step: the first operation offered is decoded and executed (spec/00_scope.md R5). The block has no
program counter (10_state R36): the next operation is whatever the agents do next. With none offered there is no step, and
the refusal says whether a completion is outstanding, so that the run is not over (10_state R35(d)). -/

namespace Sys2Proof.Machine

/-- One operation, executed atomically (00_scope R5). -/
def step (s : State) : Host.Outcome State Fault Refusal :=
  match s.pending with
  | [] => .refused s.idleRefusal
  | o :: rest => exec (decode s.cfg o) { s with pending := rest }

/-- The state with one operation put before those already offered, so that the next step takes it. -/
def State.offer (o : Op) (s : State) : State := { s with pending := o :: s.pending }

/-- The state whose next step takes the operation of a word numbered as spec/opcode_table.json numbers it. -/
def State.withFetchWord (s : State) (nbits w : Nat) : State := s.offer (opOfTableWord nbits w)

end Sys2Proof.Machine
end

