-- ==== Sys2Proof/Machine/Script.lean ====
section
/-! DEFINITION. The front end: how a bus address becomes a selector (spec/20_memory.md R61, R62, R63, R70), the lines of the spec's
operation scripts and the words they build (spec/30_encoding.md R97), and the pseudo-operations (R98). -/

namespace Sys2Proof.Machine

/-- `off = addr AND RTC_OFF_MASK` (20_memory R61, 92 D10). -/
def rtcOffOfAddr (cfg : Config) (addr : Word) : BitVec 8 := addr.extractLsb' 0 8 &&& cfg.rtcOffMask

/-- `a = addr AND 0x7FFF`, before decoding (20_memory R62). -/
def regAddrOfAddr (addr : Word) : RegAddr := addr.extractLsb' 0 15

/-- `sel`, the byte offset in the DMA window, of the seven bits that a channel and SEL[4:0] take (20_memory R63, R70). -/
def dmaSelOfAddr (cfg : Config) (addr : Word) : RegAddr :=
  ((addr - BitVec.ofNat 32 cfg.dmaWindow.base).extractLsb' 0 7).setWidth 15

/-- Whether a bus address lies in a window. -/
def Region.holds (r : Region) (addr : Word) : Bool :=
  decide (r.base ≤ addr.toNat) && decide (addr.toNat < r.base + r.size)

/-- The operation word that a bus access makes (30_encoding R91, R92), `rw` 0 for a read; none for an address that is
mapped to no port of the block. The windows are configuration (20_memory R70). -/
def busWord (cfg : Config) (rw : BitVec 1) (w : Width) (addr : Word) : Option Word :=
  if Region.holds cfg.rtcWindow addr then some (opwOf 0#2 rw w.code (rtcSel (rtcOffOfAddr cfg addr)))
  else if Region.holds cfg.regWindow addr then some (opwOf 1#2 rw w.code (regAddrOfAddr addr))
  else if Region.holds cfg.dmaWindow addr then some (opwOf 2#2 rw w.code (dmaSelOfAddr cfg addr))
  else none

/-- The DMA registers by name, with the reserved index 4 (20_memory R63). -/
inductive DmaReg where
  | dst | src | len | dir | reserved | en | st | susp
  deriving DecidableEq, Repr

/-- The index of a register within its channel (20_memory R63). -/
def DmaReg.idx : DmaReg → Nat
  | .dst => 0
  | .src => 1
  | .len => 2
  | .dir => 3
  | .reserved => 4
  | .en => 5
  | .st => 6
  | .susp => 7

/-- The number of a channel (20_memory R63). -/
def Chan.num : Chan → Nat
  | .ch0 => 0
  | .ch1 => 1
  | .ch2 => 2
  | .ch3 => 3

/-- A line of an operation script (30_encoding R97). -/
inductive Line where
  /-- `rd.rtc off`, `rd.rtc.b off`, `rd.rtc.h off` -/
  | rdRtc (w : Width) (off : BitVec 8)
  /-- `wr.rtc off, data`, `wr.rtc.b off, data`, `wr.rtc.h off, data` -/
  | wrRtc (w : Width) (off : BitVec 8) (data : Word)
  /-- `rd8 a`, `rd16 a`, `rd32 a` -/
  | rdReg (w : Width) (addr : Word)
  /-- `wr8 a, data`, `wr16 a, data`, `wr32 a, data` -/
  | wrReg (w : Width) (addr : Word) (data : Word)
  /-- `rd.dma c, R` -/
  | rdDma (c : Chan) (r : DmaReg)
  /-- `wr.dma c, R, data` -/
  | wrDma (c : Chan) (r : DmaReg) (data : Word)
  /-- `evt reset, seed` -/
  | evtReset (seed : Word)
  /-- `evt tick` -/
  | evtTick
  /-- `evt done0` -/
  | evtDone0
  /-- `raw opw, data` -/
  | raw (opw data : Word)
  deriving DecidableEq, Repr

/-- The width's bits of the operation word in R97's table. -/
def widthBits : Width → Word
  | .b1 => 0x00000000#32
  | .b2 => 0x08000000#32
  | .b4 => 0x10000000#32

/-- The byte offset `0x20 * c + 4 * idx` of a DMA register (20_memory R63). -/
def dmaOffset (c : Chan) (r : DmaReg) : Word := BitVec.ofNat 32 (0x20 * Chan.num c + 4 * r.idx)

/-- The operation a script line issues (30_encoding R97, column "OPW built"). -/
def Line.op : Line → Op
  | .rdRtc w off => ⟨widthBits w ||| off.setWidth 32, 0#32⟩
  | .wrRtc w off data => ⟨0x20000000#32 ||| widthBits w ||| off.setWidth 32, data⟩
  | .rdReg w addr => ⟨0x40000000#32 ||| widthBits w ||| (regAddrOfAddr addr).setWidth 32, 0#32⟩
  | .wrReg w addr data => ⟨0x60000000#32 ||| widthBits w ||| (regAddrOfAddr addr).setWidth 32, data⟩
  | .rdDma c r => ⟨0x90000000#32 ||| dmaOffset c r, 0#32⟩
  | .wrDma c r data => ⟨0xB0000000#32 ||| dmaOffset c r, data⟩
  | .evtReset seed => ⟨0xC0000000#32, seed⟩
  | .evtTick => ⟨0xC0000001#32, 0#32⟩
  | .evtDone0 => ⟨0xC0000002#32, 0#32⟩
  | .raw opw data => ⟨opw, data⟩

/-- `rtc.set v` (30_encoding R98): the low word first, because the high-word write closes the window. -/
def rtcSet (v : Word) : List Line :=
  [.wrRtc .b4 8#8 1#32, .wrRtc .b4 4#8 (zextHalf (rtcLow v)), .wrRtc .b4 0#8 (zextHalf (rtcHigh v))]

/-- `rtc.lock` (30_encoding R98). -/
def rtcLock : List Line := [.wrRtc .b4 8#8 0#32]

/-- `cop.hold` (30_encoding R98). -/
def copHold (cfg : Config) : List Line := [.wrReg .b1 (cfg.aRst.setWidth 32) 1#32]

/-- `cop.release` (30_encoding R98). -/
def copRelease (cfg : Config) : List Line := [.wrReg .b1 (cfg.aRst.setWidth 32) 0#32]

/-- The five register writes of `dma.xfer` before its trigger (30_encoding R98; 70_reset_and_hazards R265). -/
def dmaSetUp (c : Chan) (src dst n dir : Word) : List Line :=
  [.wrDma c .src src, .wrDma c .dst dst, .wrDma c .len n, .wrDma c .dir dir, .wrDma c .en 1#32]

/-- `dma.xfer c, s, d, n, dir` (30_encoding R98). -/
def dmaXfer (c : Chan) (src dst n dir : Word) : List Line :=
  dmaSetUp c src dst n dir ++ [.wrDma c .st 1#32]

/-- The state in which the bus master has made an access at a bus address, before what is already offered. -/
def State.offerBus (rw : BitVec 1) (w : Width) (addr data : Word) (s : State) : Option State :=
  (busWord s.cfg rw w addr).map fun opw => s.offer ⟨opw, data⟩

/-- The operations of a script, offered before those already pending. -/
def State.offerScript (ls : List Line) (s : State) : State := { s with pending := ls.map Line.op ++ s.pending }

end Sys2Proof.Machine
end

