-- ==== Sys2Proof/Safety.lean ====
section
/-! DEFINITION. What counts as a safe run, in the terms the claims use: the agents and the environment's contract
(spec/00_scope.md R6, 10_state R35), the invariants of 10_state R38, and the frames. -/

namespace Sys2Proof.Machine

/-- The agents that issue operations (00_scope R6). -/
inductive Agent where
  | bus | schedRtc | schedDma0 | host
  deriving DecidableEq, Repr

/-- The agent that issues an operation (00_scope R6); none for a word that is no access. -/
def agentOf : Instr → Option Agent
  | .reset _ => some .host
  | .rtcTick => some .schedRtc
  | .dma0Done => some .schedDma0
  | .opwInvalid _ => none
  | .rtcRdh _ | .rtcRdl _ | .rtcRden _ | .rtcWrh _ _ | .rtcWrl _ _ | .rtcWren _ _ => some .bus
  | .rtcRdinv _ _ | .rtcWrinv _ _ _ => some .bus
  | .regRd8Rst | .regWr8Rst _ | .regRd8Vreg | .regWr8Vreg _ | .regRd16Pair | .regWr16Pair _ => some .bus
  | .regRdBadw _ | .regWrBadw _ _ | .regRdPass _ _ | .regWrPass _ _ _ => some .bus
  | .dmaRdDst _ | .dmaRdSrc _ | .dmaRdLen _ | .dmaRdDir _ | .dmaRdEn _ | .dmaRdSt _ | .dmaRdSusp _ => some .bus
  | .dmaWrDst _ _ | .dmaWrSrc _ _ | .dmaWrLen _ _ | .dmaWrDir _ _ | .dmaWrEn _ _ | .dmaWrSusp _ _ => some .bus
  | .dma0WrSt _ | .dma1WrSt _ | .dma2WrSt _ | .dma3WrSt _ => some .bus
  | .dmaRdRsvd _ _ | .dmaWrRsvd _ _ _ | .dmaRdBadw _ _ _ | .dmaWrBadw _ _ _ _ => some .bus

/-- The environment's contract (10_state R35(a)): DMA0.DONE is delivered only while a request is armed. -/
def environmentAllows (i : Instr) (s : State) : Bool :=
  match agentOf i with
  | some .schedDma0 => !s.env.armDma0.isEmpty
  | some .bus => true
  | some .schedRtc => true
  | some .host => true
  | none => false

/-- A step the environment may take: an operation is offered, it is no invalid word, and its agent may issue it. -/
def safeToStep (s : State) : Bool :=
  match s.pending with
  | [] => false
  | o :: _ => environmentAllows (decode s.cfg o) s

/-- The operations that return a value (00_scope R10): the reads. -/
def isRead : Instr → Bool
  | .rtcRdh _ | .rtcRdl _ | .rtcRden _ | .rtcRdinv _ _ => true
  | .regRd8Rst | .regRd8Vreg | .regRd16Pair | .regRdBadw _ | .regRdPass _ _ => true
  | .dmaRdDst _ | .dmaRdSrc _ | .dmaRdLen _ | .dmaRdDir _ | .dmaRdEn _ | .dmaRdSt _ | .dmaRdSusp _ => true
  | .dmaRdRsvd _ _ | .dmaRdBadw _ _ _ => true
  | .rtcWrh _ _ | .rtcWrl _ _ | .rtcWren _ _ | .rtcWrinv _ _ _ => false
  | .regWr8Rst _ | .regWr8Vreg _ | .regWr16Pair _ | .regWrBadw _ _ | .regWrPass _ _ _ => false
  | .dmaWrDst _ _ | .dmaWrSrc _ _ | .dmaWrLen _ _ | .dmaWrDir _ _ | .dmaWrEn _ _ | .dmaWrSusp _ _ => false
  | .dma0WrSt _ | .dma1WrSt _ | .dma2WrSt _ | .dma3WrSt _ | .dmaWrRsvd _ _ _ | .dmaWrBadw _ _ _ _ => false
  | .reset _ | .rtcTick | .dma0Done | .opwInvalid _ => false

/-- The reads of a register that the block intercepts (20_memory R69): they emit nothing. -/
def isPlainRead : Instr → Bool
  | .rtcRdh _ | .rtcRdl _ | .rtcRden _ | .regRd8Rst | .regRd8Vreg | .regRd16Pair => true
  | .dmaRdDst _ | .dmaRdSrc _ | .dmaRdLen _ | .dmaRdDir _ | .dmaRdEn _ | .dmaRdSt _ | .dmaRdSusp _ => true
  | .rtcRdinv _ _ | .regRdBadw _ | .regRdPass _ _ | .dmaRdRsvd _ _ | .dmaRdBadw _ _ _ => false
  | .rtcWrh _ _ | .rtcWrl _ _ | .rtcWren _ _ | .rtcWrinv _ _ _ => false
  | .regWr8Rst _ | .regWr8Vreg _ | .regWr16Pair _ | .regWrBadw _ _ | .regWrPass _ _ _ => false
  | .dmaWrDst _ _ | .dmaWrSrc _ _ | .dmaWrLen _ _ | .dmaWrDir _ _ | .dmaWrEn _ _ | .dmaWrSusp _ _ => false
  | .dma0WrSt _ | .dma1WrSt _ | .dma2WrSt _ | .dma3WrSt _ | .dmaWrRsvd _ _ _ | .dmaWrBadw _ _ _ _ => false
  | .reset _ | .rtcTick | .dma0Done | .opwInvalid _ => false

/-- The channel whose registers an operation reads or writes (42_dma); none for the RTC, REG and RESET operations. -/
def channelOf : Instr → Option Chan
  | .dmaRdDst c | .dmaRdSrc c | .dmaRdLen c | .dmaRdDir c | .dmaRdEn c | .dmaRdSt c | .dmaRdSusp c => some c
  | .dmaWrDst c _ | .dmaWrSrc c _ | .dmaWrLen c _ | .dmaWrDir c _ | .dmaWrEn c _ | .dmaWrSusp c _ => some c
  | .dmaRdRsvd c _ | .dmaWrRsvd c _ _ | .dmaRdBadw _ c _ | .dmaWrBadw _ c _ _ => some c
  | .dma0WrSt _ | .dma0Done => some .ch0
  | .dma1WrSt _ => some .ch1
  | .dma2WrSt _ => some .ch2
  | .dma3WrSt _ => some .ch3
  | .rtcRdh _ | .rtcRdl _ | .rtcRden _ | .rtcWrh _ _ | .rtcWrl _ _ | .rtcWren _ _ => none
  | .rtcRdinv _ _ | .rtcWrinv _ _ _ | .rtcTick => none
  | .regRd8Rst | .regWr8Rst _ | .regRd8Vreg | .regWr8Vreg _ | .regRd16Pair | .regWr16Pair _ => none
  | .regRdBadw _ | .regWrBadw _ _ | .regRdPass _ _ | .regWrPass _ _ _ => none
  | .reset _ | .opwInvalid _ => none

/-- The parts of the block (00_scope R1). -/
inductive Part where
  | rtc | latch | dma
  deriving DecidableEq, Repr

/-- The part that an operation belongs to (10_state R33; LATCH and DECODER share the REG port); none for RESET, which
writes them all, and for a word that is no access. -/
def partOf : Instr → Option Part
  | .rtcRdh _ | .rtcRdl _ | .rtcRden _ | .rtcWrh _ _ | .rtcWrl _ _ | .rtcWren _ _ => some .rtc
  | .rtcRdinv _ _ | .rtcWrinv _ _ _ | .rtcTick => some .rtc
  | .regRd8Rst | .regWr8Rst _ | .regRd8Vreg | .regWr8Vreg _ | .regRd16Pair | .regWr16Pair _ => some .latch
  | .regRdBadw _ | .regWrBadw _ _ | .regRdPass _ _ | .regWrPass _ _ _ => some .latch
  | .dmaRdDst _ | .dmaRdSrc _ | .dmaRdLen _ | .dmaRdDir _ | .dmaRdEn _ | .dmaRdSt _ | .dmaRdSusp _ => some .dma
  | .dmaWrDst _ _ | .dmaWrSrc _ _ | .dmaWrLen _ _ | .dmaWrDir _ _ | .dmaWrEn _ _ | .dmaWrSusp _ _ => some .dma
  | .dma0WrSt _ | .dma1WrSt _ | .dma2WrSt _ | .dma3WrSt _ | .dma0Done => some .dma
  | .dmaRdRsvd _ _ | .dmaWrRsvd _ _ _ | .dmaRdBadw _ _ _ | .dmaWrBadw _ _ _ _ => some .dma
  | .reset _ | .opwInvalid _ => none

/-- The write of a channel's start register (30_encoding R95 rows 32 to 35). -/
def wrSt (c : Chan) (data : Word) : Instr :=
  match c with
  | .ch0 => .dma0WrSt data
  | .ch1 => .dma1WrSt data
  | .ch2 => .dma2WrSt data
  | .ch3 => .dma3WrSt data

/-- Operations executed one after another, with nothing between (00_scope R5). -/
def runAll : List Instr → State → Host.Outcome State Fault Refusal
  | [], s => .next s
  | i :: is, s =>
    match exec i s with
    | .next t => runAll is t
    | .fault f => .fault f
    | .refused r => .refused r

/-- Everything but channel `c`, the environment, the trace and the read result is the same. -/
def OnlyChannel (c : Chan) (s t : State) : Prop :=
  (∀ c', c' ≠ c → t.chan c' = s.chan c') ∧ t.blk.rtc = s.blk.rtc ∧ t.blk.rtcEn = s.blk.rtcEn
    ∧ t.blk.armrst = s.blk.armrst ∧ t.blk.vreg = s.blk.vreg ∧ t.cfg = s.cfg ∧ t.pending = s.pending

/-- How many interrupts a list of events raises. -/
def raisedInts (ev : List Event) : Nat :=
  ev.countP fun e => match e with
    | .raiseInt _ => true
    | .move _ _ _ => false
    | .copSetEnabled _ => false
    | .schedRequest _ _ => false
    | .extWrite _ _ => false
    | .extRead _ _ => false
    | .diag _ => false
    | .log _ => false

/-- The invariants of 10_state R38 (a), (b), (c), that the tick stays armed (R35(c)), and the memory's canonical form;
R38(d) holds by the types. -/
structure Inv (s : State) : Prop where
  /-- R38(a) -/
  gpIdle : ∀ c, c ≠ .ch0 → (s.chan c).st = 0#32
  /-- R38(b) -/
  st0Bit : (s.chan .ch0).st = 0#32 ∨ (s.chan .ch0).st = 1#32
  /-- R38(c) -/
  busyIsArmed : s.env.armDma0 = [] → (s.chan .ch0).st = 0#32
  /-- R35(c) -/
  tickArmed : s.env.armRtc ≠ []
  /-- the flat memory's canonical form -/
  memWf : s.env.mem.wf

end Sys2Proof.Machine
end

