-- ==== Sys2Proof/Certificates/Slice0/Obligations.lean ====
section
/-! DEFINITION. The statements, each from the numbered rules that its docstring cites. A statement quantifies over every
state, so over every configuration (log entry 1), and over every free value. -/

open Sys2Proof Sys2Proof.Machine

/-! ### Encoding -/

/-- Decode of encode is the operation, for every operation, every operand and every `A_RST` (30_encoding R91, R92, R95). -/
def Obligations.DecodeOfEncodeIsTheOperation : Prop :=
  ∀ (cfg : Config) (i : Instr), i.wf cfg = true → decode cfg (encode cfg i) = i

/-- The decoder is total, yields an operation of the map, and drops no bit of the operation word (30_encoding R94). -/
def Obligations.EncodeOfDecodeIsTheWord : Prop :=
  ∀ (cfg : Config) (o : Op), (decode cfg o).wf cfg = true ∧ (encode cfg (decode cfg o)).opw = o.opw

/-- The words that spell no operation are exactly those of 30_encoding R96(b), whatever the data. -/
def Obligations.InvalidWordsAreExactlyTheListed : Prop :=
  ∀ (cfg : Config) (w data : Word),
    let port := w.extractLsb' 30 2
    let rw := w.extractLsb' 29 1
    let wc := w.extractLsb' 27 2
    let sel := w.extractLsb' 0 15
    decode cfg ⟨w, data⟩ = .opwInvalid w ↔
      wc = 3#2 ∨ w.extractLsb' 15 12 ≠ 0#12 ∨ (port = 0#2 ∧ sel.extractLsb' 8 7 ≠ 0#7)
        ∨ (port = 2#2 ∧ sel.extractLsb' 7 8 ≠ 0#8) ∨ (port = 3#2 ∧ (rw = 1#1 ∨ wc ≠ 0#2 ∨ 2 < sel.toNat))

/-- A word that spells no operation is refused: no step (30_encoding R96(b)). -/
def Obligations.InvalidWordIsRefused : Prop :=
  ∀ (s : State) (w : Word), exec (.opwInvalid w) s = .refused (.invalidOperationWord w)

/-- Words written out from 30_encoding R91 and R92, one or more of each port, decode to the operation they spell. Two
things here are the model's choice, not R91's or R92's: that the data operand of a table number is its bits 63..32, and 0 in
a number of 32 bits (log entry 19: the third clause, and the data 0 of the other writes); and that the default `A_RST` is
0x2C00, so that 0x2C00 is the pair's address and 0x2C01 is forwarded at two bytes (log entry 2: the fourth and fifth
clauses). -/
def Obligations.WrittenWordsDecode : Prop :=
  decodeTableWord 32 0x08000004 = some (.rtcRdl .b2) ∧
  decodeTableWord 32 0x300000FC = some (.rtcWrinv .b4 0xFC#8 0#32) ∧
  decodeTableWord 64 0xABCD30000000 = some (.rtcWrh .b4 0x0000ABCD#32) ∧
  decodeTableWord 32 0x48002C00 = some .regRd16Pair ∧
  decodeTableWord 32 0x48002C01 = some (.regRdPass .two 0x2C01#15) ∧
  decodeTableWord 32 0x70007FFF = some (.regWrBadw 0x7FFF#15 0#32) ∧
  decodeTableWord 32 0x90000064 = some (.dmaRdSrc .ch3) ∧
  decodeTableWord 32 0xB0000078 = some (.dma3WrSt 0#32) ∧
  decodeTableWord 32 0xB0000031 = some (.dmaWrRsvd .ch1 0x11#5 0#32) ∧
  decodeTableWord 32 0xA8000058 = some (.dmaWrBadw .two .ch2 0x18#5 0#32) ∧
  decodeTableWord 32 0xC0000001 = some .rtcTick ∧
  decodeTableWord 32 0x40008000 = some (.opwInvalid 0x40008000#32)

/-- The decoder's dispatch of REG accesses on the masked address and the width, row by row (41_reset_latch_decoder R150);
the access is the one that a bus address makes (20_memory R62). -/
def Obligations.RegDispatchFollowsTheMaskedAddress : Prop :=
  ∀ (cfg : Config) (addr d : Word),
    let a := addr.extractLsb' 0 15
    let rd := fun w => decode cfg (Line.op (.rdReg w addr))
    let wr := fun w => decode cfg (Line.op (.wrReg w addr d))
    (a = cfg.aRst → rd .b1 = .regRd8Rst ∧ wr .b1 = .regWr8Rst d) ∧
    (a = cfg.aRst + 1#15 → rd .b1 = .regRd8Vreg ∧ wr .b1 = .regWr8Vreg d) ∧
    (a = cfg.aRst → rd .b2 = .regRd16Pair ∧ wr .b2 = .regWr16Pair d) ∧
    (a = cfg.aRst + 1#15 → rd .b2 = .regRdPass .two a ∧ wr .b2 = .regWrPass .two a d) ∧
    (a ≠ cfg.aRst → a ≠ cfg.aRst + 1#15 →
      rd .b1 = .regRdPass .one a ∧ wr .b1 = .regWrPass .one a d ∧
      rd .b2 = .regRdPass .two a ∧ wr .b2 = .regWrPass .two a d) ∧
    (rd .b4 = .regRdBadw a ∧ wr .b4 = .regWrBadw a d)

/-! ### The step -/

/-- A step takes the first operation offered, decodes it and executes it (00_scope R5); with none offered there is no
step, and the refusal says whether a completion is still outstanding (that the operations offered stand in a queue is the
model's choice, log entry 9; that a run with one outstanding is not over is 10_state R35(d), that one with none is over is
the model's choice, log entry 21). -/
def Obligations.StepRunsTheDecodedOperation : Prop :=
  (∀ (s : State) (o : Op) (rest : List Op), s.pending = o :: rest →
    step s = exec (decode s.cfg o) { s with pending := rest }) ∧
  (∀ (s : State) (nbits w : Nat), step (s.withFetchWord nbits w) = exec (decode s.cfg (opOfTableWord nbits w)) s) ∧
  (∀ (s : State), s.pending = [] →
    step s = .refused (if s.env.armDma0 = [] then .noOperationOffered else .completionOutstanding))

/-- An operation offered as the word it encodes to is the operation the step runs. -/
def Obligations.OfferedOperationRuns : Prop :=
  ∀ (s : State) (i : Instr), i.wf s.cfg = true → step (s.offer (encode s.cfg i)) = exec i s

/-- A step executes one operation, only appends to the trace, and holds a read result exactly when the operation is a
read (00_scope R5, R9, R10). The bound of three events is that of the longest operation, the general-purpose trigger
(42_dma R203). That the operation is the head of a queue, which loses it, and that no step writes the configuration are the
model's choices, log entries 9 and 1. -/
def Obligations.StepTakesOneOperation : Prop :=
  ∀ (s t : State), step s = .next t →
    ∃ o rest ev, s.pending = o :: rest ∧ t.pending = rest ∧ t.cfg = s.cfg ∧ t.trace = s.trace ++ ev ∧ ev.length ≤ 3 ∧
      (t.rv.isSome = isRead (decode s.cfg o))

/-- Every operation completes in every state, and a read always returns a value (60_exceptions R230). -/
def Obligations.EveryOperationCompletes : Prop :=
  ∀ (s : State) (i : Instr), (∀ w, i ≠ .opwInvalid w) → ∃ t, exec i s = .next t ∧ t.rv.isSome = isRead i

/-- A step that the environment may take (00_scope R6, 10_state R35(a)) is never refused and never faults. -/
def Obligations.SafeStepCompletes : Prop :=
  ∀ (s : State), safeToStep s = true → ∃ t, step s = .next t

/-! ### Reset and the invariant -/

/-- The state after reset holds what 10_state R37 gives; the seed is a free value and is not claimed. -/
def Obligations.ResetStateHoldsTheSpecsValues : Prop :=
  State.reset.blk.rtcEn = false ∧ State.reset.blk.armrst = 0#8 ∧ State.reset.blk.vreg = 0#8 ∧
  (∀ c, State.reset.chan c = ⟨0#32, 0#32, 0#32, 0#32, 0#32, 0#32, 0#32⟩) ∧
  State.reset.env.armDma0 = [] ∧ State.reset.env.armRtc = [State.reset.cfg.clock]

/-- RESET(seed) (70_reset_and_hazards R260): the counter is the seed and every other register of the block is 0; nothing
outside the block changes and no event is emitted. -/
def Obligations.ResetEventWritesTheBlockOnly : Prop :=
  ∀ (s : State) (seed : Word),
    let z : Channel := ⟨0#32, 0#32, 0#32, 0#32, 0#32, 0#32, 0#32⟩
    decode s.cfg ⟨0xC0000000#32, seed⟩ = .reset seed ∧
    exec (.reset seed) s = .next { s with
      blk := { rtc := seed, rtcEn := false, armrst := 0#8, vreg := 0#8, ch0 := z, ch1 := z, ch2 := z, ch3 := z }, rv := none }

/-- The invariants of 10_state R38 and the memory's canonical form hold after reset. -/
def Obligations.ResetStateMeetsTheInvariant : Prop := Inv State.reset

/-- Every step from every state that meets the invariant keeps it (10_state R38, R35(c)). -/
def Obligations.StepKeepsTheInvariant : Prop :=
  ∀ (s t : State), Inv s → step s = .next t → Inv t

/-- A reset while a completion is pending: the stale callback changes nothing, raises nothing, and the data already
moved stays moved (70_reset_and_hazards R262). -/
def Obligations.StaleCallbackAfterResetIsNoOp : Prop :=
  ∀ (s : State) (seed : Word), ∃ t u, exec (.reset seed) s = .next t ∧ exec .dma0Done t = .next u ∧
    u.blk = t.blk ∧ u.trace = s.trace ∧ u.env.mem = s.env.mem ∧ (u.chan .ch0).susp = 0#32

/-! ### RTC -/

/-- The RTC reads (40_rtc R120, R121, R122), at every access width and whether or not the latch is set. -/
def Obligations.RtcReadsReturnTheHalves : Prop :=
  ∀ (s : State) (w : Width) (x : Word),
    (decode s.cfg ⟨opwOf 0#2 0#1 w.code 0#15, x⟩ = .rtcRdh w ∧
      exec (.rtcRdh w) s = .next { s with rv := some ((s.blk.rtc.extractLsb' 16 16).setWidth 32) }) ∧
    (decode s.cfg ⟨opwOf 0#2 0#1 w.code 4#15, x⟩ = .rtcRdl w ∧
      exec (.rtcRdl w) s = .next { s with rv := some ((s.blk.rtc.extractLsb' 0 16).setWidth 32) }) ∧
    (decode s.cfg ⟨opwOf 0#2 0#1 w.code 8#15, x⟩ = .rtcRden w ∧
      exec (.rtcRden w) s = .next { s with rv := some 0#32 })

/-- An RTC access at any other offset emits one diagnostic, reads 0, and changes nothing (40_rtc R123, R127). -/
def Obligations.RtcInvalidOffsetsAreDiagnosed : Prop :=
  ∀ (s : State) (w : Width) (off : BitVec 8) (d : Word), off ≠ 0#8 → off ≠ 4#8 → off ≠ 8#8 →
    (decode s.cfg ⟨opwOf 0#2 0#1 w.code (off.setWidth 15), d⟩ = .rtcRdinv w off ∧
      exec (.rtcRdinv w off) s =
        .next { s with trace := s.trace ++ [.diag (.rtcInvalidRead off)], rv := some 0#32 }) ∧
    (decode s.cfg ⟨opwOf 0#2 1#1 w.code (off.setWidth 15), d⟩ = .rtcWrinv w off d ∧
      exec (.rtcWrinv w off d) s =
        .next { s with trace := s.trace ++ [.diag (.rtcInvalidWrite off d)], rv := none })

/-- The RTC writes (40_rtc R124, R125, R126): a half is replaced only while the latch is set, a high-word write clears
it, a low-word write leaves it; a write at offset 8 sets it to bit 0 of the data. -/
def Obligations.RtcWritesFollowTheLatch : Prop :=
  ∀ (s : State) (w : Width) (d : Word),
    (decode s.cfg ⟨opwOf 0#2 1#1 w.code 0#15, d⟩ = .rtcWrh w d ∧
      (s.blk.rtcEn = true → ∃ rtc, exec (.rtcWrh w d) s =
          .next { s with blk := { s.blk with rtc := rtc, rtcEn := false }, rv := none } ∧
        rtc.extractLsb' 16 16 = d.extractLsb' 0 16 ∧ rtc.extractLsb' 0 16 = s.blk.rtc.extractLsb' 0 16) ∧
      (s.blk.rtcEn = false → exec (.rtcWrh w d) s = .next { s with rv := none })) ∧
    (decode s.cfg ⟨opwOf 0#2 1#1 w.code 4#15, d⟩ = .rtcWrl w d ∧
      (s.blk.rtcEn = true → ∃ rtc, exec (.rtcWrl w d) s =
          .next { s with blk := { s.blk with rtc := rtc }, rv := none } ∧
        rtc.extractLsb' 0 16 = d.extractLsb' 0 16 ∧ rtc.extractLsb' 16 16 = s.blk.rtc.extractLsb' 16 16) ∧
      (s.blk.rtcEn = false → exec (.rtcWrl w d) s = .next { s with rv := none })) ∧
    (decode s.cfg ⟨opwOf 0#2 1#1 w.code 8#15, d⟩ = .rtcWren w d ∧
      exec (.rtcWren w d) s = .next { s with blk := { s.blk with rtcEn := d.getLsbD 0 }, rv := none })

/-- The tick (40_rtc R128): the counter plus 1 modulo 2^32, whatever the latch, and the next tick is requested; nothing
else changes but the scheduler's own queue of H_RTC, for which see `ArmedRequestsAreNeverCancelled`. -/
def Obligations.TickCountsAndRearms : Prop :=
  ∀ (s : State) (x : Word),
    decode s.cfg ⟨0xC0000001#32, x⟩ = .rtcTick ∧
    ∃ t, exec .rtcTick s = .next t ∧
      t.blk = { s.blk with rtc := BitVec.ofNat 32 ((s.blk.rtc.toNat + 1) % 2 ^ 32) } ∧
      t.trace = s.trace ++ [.schedRequest .rtc s.cfg.clock] ∧ t.rv = none ∧ t.cfg = s.cfg ∧ t.pending = s.pending ∧
      t.env = { s.env with armRtc := t.env.armRtc }

/-- The laws of the write window (40_rtc R129 (a), (b), (c)): low word then high word sets the counter, and a second
high-word write is a no-op; high word first loses the low word; low words follow one another in one window, and the window closes only by a high-word
write, a write at offset 8 with bit 0 clear, or RESET. -/
def Obligations.WriteWindowSequences : Prop :=
  ∀ (s : State) (w : Width) (l l2 h h2 : Word),
    (∃ rtc, runAll [.rtcWren w 1#32, .rtcWrl w l, .rtcWrh w h] s =
        .next { s with blk := { s.blk with rtc := rtc, rtcEn := false }, rv := none } ∧
      runAll [.rtcWren w 1#32, .rtcWrl w l, .rtcWrh w h, .rtcWrh w h2] s =
        .next { s with blk := { s.blk with rtc := rtc, rtcEn := false }, rv := none } ∧
      rtc.extractLsb' 16 16 = h.extractLsb' 0 16 ∧ rtc.extractLsb' 0 16 = l.extractLsb' 0 16) ∧
    (∃ rtc, runAll [.rtcWren w 1#32, .rtcWrh w h, .rtcWrl w l] s =
        .next { s with blk := { s.blk with rtc := rtc, rtcEn := false }, rv := none } ∧
      rtc.extractLsb' 16 16 = h.extractLsb' 0 16 ∧ rtc.extractLsb' 0 16 = s.blk.rtc.extractLsb' 0 16) ∧
    (∃ rtc, runAll [.rtcWren w 1#32, .rtcWrl w l, .rtcWrl w l2] s =
        .next { s with blk := { s.blk with rtc := rtc, rtcEn := true }, rv := none } ∧
      rtc.extractLsb' 16 16 = s.blk.rtc.extractLsb' 16 16 ∧ rtc.extractLsb' 0 16 = l2.extractLsb' 0 16) ∧
    (∀ (i : Instr) (t : State), s.blk.rtcEn = true → exec i s = .next t → t.blk.rtcEn = false →
      (∃ w d, i = .rtcWrh w d) ∨ (∃ w d, i = .rtcWren w d ∧ d.getLsbD 0 = false) ∨ ∃ seed, i = .reset seed)

/-- The counter and its latch change only by their own operations (40_rtc R131, 10_state R21, R22): the counter by an
armed half write, the tick and RESET; the latch by a write at offset 8, an armed high-word write and RESET. -/
def Obligations.OnlyItsOwnOperationsChangeTheRtc : Prop :=
  ∀ (i : Instr) (s t : State), exec i s = .next t →
    (t.blk.rtc = s.blk.rtc ∨ (∃ w d, i = .rtcWrh w d ∧ s.blk.rtcEn = true) ∨
      (∃ w d, i = .rtcWrl w d ∧ s.blk.rtcEn = true) ∨ i = .rtcTick ∨ ∃ seed, i = .reset seed) ∧
    (t.blk.rtcEn = s.blk.rtcEn ∨ (∃ w d, i = .rtcWren w d) ∨
      (∃ w d, i = .rtcWrh w d ∧ s.blk.rtcEn = true) ∨ ∃ seed, i = .reset seed)

/-- The seed (40_rtc R130) is the sum of wall-clock time, epoch offset and bias modulo 2^32, and RESET loads it. -/
def Obligations.SeedIsTheEpochSum : Prop :=
  ∀ (s : State) (unixNow : Nat) (tzBias : Int),
    let seed := timeSourceSeed s.cfg unixNow tzBias
    (seed.toNat : Int) = ((unixNow : Int) + (s.cfg.rtcEpochOffset : Int) + tzBias) % 2 ^ 32 ∧
    ∃ t, exec (.reset seed) s = .next t ∧ t.blk.rtc = seed

/-- A tick between the half accesses (70_reset_and_hazards R266): when the low half is all ones, the high half read
before and the low half read after are 65536 seconds behind; and a tick between the two half writes increments the low
word just written. -/
def Obligations.TickBetweenHalfAccesses : Prop :=
  ∀ (s : State) (w : Width) (l h : Word),
    (s.blk.rtc.extractLsb' 0 16 = 0xFFFF#16 → ∃ t u v, exec (.rtcRdh w) s = .next t ∧ exec .rtcTick t = .next u ∧
      exec (.rtcRdl w) u = .next v ∧ ∃ hi lo, t.rv = some hi ∧ v.rv = some lo ∧
        (hi <<< 16 ||| lo) + 65536#32 = u.blk.rtc) ∧
    (∃ t, runAll [.rtcWren w 1#32, .rtcWrl w l, .rtcTick, .rtcWrh w h] s = .next t ∧
      t.blk.rtc.extractLsb' 0 16 = l.extractLsb' 0 16 + 1#16 ∧ t.blk.rtc.extractLsb' 16 16 = h.extractLsb' 0 16)

/-! ### Reset latch, VREG, decoder -/

/-- The 1-byte accesses of the latch and of VREG (41_reset_latch_decoder R151, R152, R153, R154). -/
def Obligations.LatchAndVregByteAccesses : Prop :=
  ∀ (s : State) (d : Word),
    let lo := d.extractLsb' 0 8
    let on := !d.getLsbD 0
    (decode s.cfg ⟨opwOf 1#2 0#1 0#2 s.cfg.aRst, d⟩ = .regRd8Rst ∧
      exec .regRd8Rst s = .next { s with rv := some (s.blk.armrst.setWidth 32) }) ∧
    (decode s.cfg ⟨opwOf 1#2 1#1 0#2 s.cfg.aRst, d⟩ = .regWr8Rst d ∧
      exec (.regWr8Rst d) s = .next { s with
        blk := { s.blk with armrst := lo }, env := { s.env with copEnabled := some on },
        trace := s.trace ++ [.copSetEnabled on], rv := none }) ∧
    (decode s.cfg ⟨opwOf 1#2 0#1 0#2 (s.cfg.aRst + 1#15), d⟩ = .regRd8Vreg ∧
      exec .regRd8Vreg s = .next { s with rv := some (s.blk.vreg.setWidth 32) }) ∧
    (decode s.cfg ⟨opwOf 1#2 1#1 0#2 (s.cfg.aRst + 1#15), d⟩ = .regWr8Vreg d ∧
      exec (.regWr8Vreg d) s = .next { s with
        blk := { s.blk with vreg := lo }, trace := s.trace ++ [.log (.vregWrite lo)], rv := none })

/-- The 2-byte accesses of the pair (41_reset_latch_decoder R155, R156): VREG high, ARMRST low. -/
def Obligations.PairAccesses : Prop :=
  ∀ (s : State) (d : Word),
    let lo := d.extractLsb' 0 8
    let hi := d.extractLsb' 8 8
    let on := !d.getLsbD 0
    (decode s.cfg ⟨opwOf 1#2 0#1 1#2 s.cfg.aRst, d⟩ = .regRd16Pair ∧
      exec .regRd16Pair s = .next { s with
        rv := some (s.blk.vreg.setWidth 32 <<< 8 ||| s.blk.armrst.setWidth 32) }) ∧
    (decode s.cfg ⟨opwOf 1#2 1#1 1#2 s.cfg.aRst, d⟩ = .regWr16Pair d ∧
      exec (.regWr16Pair d) s = .next { s with
        blk := { s.blk with vreg := hi, armrst := lo }, env := { s.env with copEnabled := some on },
        trace := s.trace ++ [.log (.vregArmrstWrite hi lo), .copSetEnabled on], rv := none })

/-- The two views of the pair agree (41_reset_latch_decoder R162). -/
def Obligations.PairAndByteViewsAgree : Prop :=
  ∀ (s : State) (d : Word),
    (∃ t u v rt ru rv, exec .regRd16Pair s = .next t ∧ exec .regRd8Vreg s = .next u ∧ exec .regRd8Rst s = .next v ∧
      t.rv = some rt ∧ u.rv = some ru ∧ v.rv = some rv ∧ rt = (ru <<< 8 ||| rv)) ∧
    (∃ t u, exec (.regWr16Pair d) s = .next t ∧
      runAll [.regWr8Vreg ((d.extractLsb' 8 8).setWidth 32), .regWr8Rst ((d.extractLsb' 0 8).setWidth 32)] s = .next u ∧
      t.blk = u.blk ∧ t.env = u.env ∧ t.trace.getLast? = u.trace.getLast?) ∧
    (∃ t, runAll [.reset d, .regRd16Pair] s = .next t ∧ t.rv = some 0#32)

/-- The enable function (41_reset_latch_decoder R161): a write of ARMRST ends with CopSetEnabled on the value just
stored, and no other operation emits it. -/
def Obligations.CopSetEnabledFollowsLatchWrites : Prop :=
  ∀ (i : Instr) (s t : State), exec i s = .next t → ∃ ev, t.trace = s.trace ++ ev ∧
    ((∃ d, i = .regWr8Rst d ∨ i = .regWr16Pair d) →
      ev.getLast? = some (.copSetEnabled (!t.blk.armrst.getLsbD 0))) ∧
    (∀ b, .copSetEnabled b ∈ ev → ∃ d, i = .regWr8Rst d ∨ i = .regWr16Pair d)

/-- Forwarded reads (41_reset_latch_decoder R157; 20_memory R76): the masked address goes out, the external register file's
answer comes back cut to the width and zero-extended, and no register of the block changes. That the environment's answers
stand in a queue of State, and that an answer it has not listed is a free value (some value, none in particular), is the
model's choice, log entry 11. -/
def Obligations.PassThroughReadsForward : Prop :=
  ∀ (s : State) (a : RegAddr) (x : Word),
    (a ≠ s.cfg.aRst → a ≠ s.cfg.aRst + 1#15 → decode s.cfg ⟨opwOf 1#2 0#1 0#2 a, x⟩ = .regRdPass .one a) ∧
    (a ≠ s.cfg.aRst → decode s.cfg ⟨opwOf 1#2 0#1 1#2 a, x⟩ = .regRdPass .two a) ∧
    (∀ v rest, s.env.extAnswers = v :: rest →
      exec (.regRdPass .one a) s = .next { s with
        env := { s.env with extAnswers := rest }, trace := s.trace ++ [.extRead a (.byte (v.extractLsb' 0 8))],
        rv := some ((v.extractLsb' 0 8).setWidth 32) } ∧
      exec (.regRdPass .two a) s = .next { s with
        env := { s.env with extAnswers := rest }, trace := s.trace ++ [.extRead a (.half v)],
        rv := some (v.setWidth 32) }) ∧
    (s.env.extAnswers = [] → ∃ v : Half,
      exec (.regRdPass .one a) s = .next { s with
        env := { s.env with draws := s.env.draws + 1 }, trace := s.trace ++ [.extRead a (.byte (v.extractLsb' 0 8))],
        rv := some ((v.extractLsb' 0 8).setWidth 32) } ∧
      exec (.regRdPass .two a) s = .next { s with
        env := { s.env with draws := s.env.draws + 1 }, trace := s.trace ++ [.extRead a (.half v)],
        rv := some (v.setWidth 32) })

/-- Forwarded writes (41_reset_latch_decoder R158): the masked address and the width's bits of the data go out; nothing of
the block changes, whatever byte addresses the access covers. -/
def Obligations.PassThroughWritesForward : Prop :=
  ∀ (s : State) (a : RegAddr) (d : Word),
    (a ≠ s.cfg.aRst → a ≠ s.cfg.aRst + 1#15 → decode s.cfg ⟨opwOf 1#2 1#1 0#2 a, d⟩ = .regWrPass .one a d) ∧
    (a ≠ s.cfg.aRst → decode s.cfg ⟨opwOf 1#2 1#1 1#2 a, d⟩ = .regWrPass .two a d) ∧
    exec (.regWrPass .one a d) s = .next { s with
      trace := s.trace ++ [.extWrite a (.byte (d.extractLsb' 0 8))], rv := none } ∧
    exec (.regWrPass .two a d) s = .next { s with
      trace := s.trace ++ [.extWrite a (.half (d.extractLsb' 0 16))], rv := none }

/-- A 4-byte REG access, at any address (41_reset_latch_decoder R159, R160): a diagnostic, 0, nothing forwarded. -/
def Obligations.RegInvalidWidthIsDiagnosed : Prop :=
  ∀ (s : State) (a : RegAddr) (d : Word),
    (decode s.cfg ⟨opwOf 1#2 0#1 2#2 a, d⟩ = .regRdBadw a ∧
      exec (.regRdBadw a) s =
        .next { s with trace := s.trace ++ [.diag (.regInvalidWidthRead a .b4)], rv := some 0#32 }) ∧
    (decode s.cfg ⟨opwOf 1#2 1#1 2#2 a, d⟩ = .regWrBadw a d ∧
      exec (.regWrBadw a d) s =
        .next { s with trace := s.trace ++ [.diag (.regInvalidWidthWrite a .b4 d)], rv := none })

/-! ### DMA registers -/

/-- Each plain DMA read returns the register's 32 bits and changes nothing (42_dma R181 to R187). -/
def Obligations.DmaReadsReturnTheRegister : Prop :=
  ∀ (s : State) (c : Chan) (x : Word),
    let word := fun low => decode s.cfg ⟨opwOf 2#2 0#1 2#2 (dmaSel c low), x⟩
    (word 0x00#5 = .dmaRdDst c ∧ exec (.dmaRdDst c) s = .next { s with rv := some (s.chan c).dst }) ∧
    (word 0x04#5 = .dmaRdSrc c ∧ exec (.dmaRdSrc c) s = .next { s with rv := some (s.chan c).src }) ∧
    (word 0x08#5 = .dmaRdLen c ∧ exec (.dmaRdLen c) s = .next { s with rv := some (s.chan c).len }) ∧
    (word 0x0C#5 = .dmaRdDir c ∧ exec (.dmaRdDir c) s = .next { s with rv := some (s.chan c).dir }) ∧
    (word 0x14#5 = .dmaRdEn c ∧ exec (.dmaRdEn c) s = .next { s with rv := some (s.chan c).en }) ∧
    (word 0x18#5 = .dmaRdSt c ∧ exec (.dmaRdSt c) s = .next { s with rv := some (s.chan c).st }) ∧
    (word 0x1C#5 = .dmaRdSusp c ∧ exec (.dmaRdSusp c) s = .next { s with rv := some (s.chan c).susp })

/-- The status register as software sees it (42_dma R186), in a state that meets the invariant: 1 exactly while channel 0
has a deferred completion outstanding, 0 on the other channels, and never the data of a write that starts nothing. -/
def Obligations.StatusReadsAsBusy : Prop :=
  ∀ (s : State) (c : Chan) (d : Word), Inv s →
    decode s.cfg ⟨opwOf 2#2 0#1 2#2 (dmaSel c 0x18#5), d⟩ = .dmaRdSt c ∧
    exec (.dmaRdSt c) s = .next { s with
      rv := some (if c = .ch0 ∧ (s.chan .ch0).st.getLsbD 0 = true then 1#32 else 0#32) } ∧
    (d.getLsbD 0 = false ∨ (s.chan c).en.getLsbD 0 = false →
      ∃ t, exec (wrSt c d) s = .next t ∧ exec (.dmaRdSt c) t = exec (.dmaRdSt c) s)

/-- Each plain DMA write stores all 32 bits, in every phase, with no other effect (42_dma R188 to R193). -/
def Obligations.DmaPlainWritesStoreTheData : Prop :=
  ∀ (s : State) (c : Chan) (d : Word),
    let word := fun low => decode s.cfg ⟨opwOf 2#2 1#1 2#2 (dmaSel c low), d⟩
    let stores := fun (i : Instr) (r : Channel) => ∃ t, exec i s = .next t ∧ t.chan c = r ∧ OnlyChannel c s t ∧
      t.env = s.env ∧ t.trace = s.trace ∧ t.rv = none
    (word 0x00#5 = .dmaWrDst c d ∧ stores (.dmaWrDst c d) { s.chan c with dst := d }) ∧
    (word 0x04#5 = .dmaWrSrc c d ∧ stores (.dmaWrSrc c d) { s.chan c with src := d }) ∧
    (word 0x08#5 = .dmaWrLen c d ∧ stores (.dmaWrLen c d) { s.chan c with len := d }) ∧
    (word 0x0C#5 = .dmaWrDir c d ∧ stores (.dmaWrDir c d) { s.chan c with dir := d }) ∧
    (word 0x14#5 = .dmaWrEn c d ∧ stores (.dmaWrEn c d) { s.chan c with en := d }) ∧
    (word 0x1C#5 = .dmaWrSusp c d ∧ stores (.dmaWrSusp c d) { s.chan c with susp := d })

/-- A DMA selector that names no register, and a 1-byte or 2-byte DMA access (42_dma R194, R195, R196, R197): a
diagnostic, 0, nothing written, nothing triggered. -/
def Obligations.DmaInvalidAccessesAreDiagnosed : Prop :=
  ∀ (s : State) (c : Chan) (low : BitVec 5) (d : Word),
    ((low.extractLsb' 2 3 = 4#3 ∨ low.extractLsb' 0 2 ≠ 0#2) →
      decode s.cfg ⟨opwOf 2#2 0#1 2#2 (dmaSel c low), d⟩ = .dmaRdRsvd c low ∧
      decode s.cfg ⟨opwOf 2#2 1#1 2#2 (dmaSel c low), d⟩ = .dmaWrRsvd c low d) ∧
    exec (.dmaRdRsvd c low) s =
      .next { s with trace := s.trace ++ [.diag (.dmaInvalidRegRead c low)], rv := some 0#32 } ∧
    exec (.dmaWrRsvd c low d) s =
      .next { s with trace := s.trace ++ [.diag (.dmaInvalidRegWrite c low d)], rv := none } ∧
    (∀ w : Narrow,
      (decode s.cfg ⟨opwOf 2#2 0#1 w.toWidth.code (dmaSel c low), d⟩ = .dmaRdBadw w c low ∧
        exec (.dmaRdBadw w c low) s =
          .next { s with trace := s.trace ++ [.diag (.dmaInvalidWidthRead c low w.toWidth)], rv := some 0#32 }) ∧
      (decode s.cfg ⟨opwOf 2#2 1#1 w.toWidth.code (dmaSel c low), d⟩ = .dmaWrBadw w c low d ∧
        exec (.dmaWrBadw w c low d) s =
          .next { s with trace := s.trace ++ [.diag (.dmaInvalidWidthWrite c low w.toWidth d)], rv := none }))

/-! ### DMA transfers -/

/-- The trigger condition (42_dma R198), all four channels: with data bit 0 or EN bit 0 clear nothing happens at all;
with both set the move is emitted, busy or not; and no other bit of the data matters, so none is ever stored. -/
def Obligations.TriggerNeedsBothBits : Prop :=
  ∀ (s : State) (c : Chan) (d : Word),
    ((d.getLsbD 0 = false ∨ (s.chan c).en.getLsbD 0 = false) → exec (wrSt c d) s = .next { s with rv := none }) ∧
    (d.getLsbD 0 = true → (s.chan c).en.getLsbD 0 = true →
      ∃ t ev, exec (wrSt c d) s = .next t ∧ t.trace = s.trace ++ ev ∧ (∃ x y n, .move x y n ∈ ev) ∧
        exec (wrSt c 1#32) s = .next t)

/-- The primary channel's trigger (42_dma R202, with R199, R200, R201): move at once; below 4096 cycles complete inline;
else busy, indicator cleared, callback requested, and addresses, length and enable keep their values. What the move does
to memory is in `TriggerMovesTheBytes`, what the request does to the scheduler's queue in `ArmedRequestsAreNeverCancelled`. -/
def Obligations.PrimaryTriggerCompletesOrDefers : Prop :=
  ∀ (s : State) (d : Word),
    let r := s.chan .ch0
    let n := r.len &&& 0x7FFFFFFF#32
    let mvDst := if r.dir.getLsbD 0 then r.src else r.dst
    let mvSrc := if r.dir.getLsbD 0 then r.dst else r.src
    let cyc := n.toNat * (s.cfg.clock / 2 / 25000000)
    decode s.cfg ⟨0xB0000018#32, d⟩ = .dma0WrSt d ∧
    (d.getLsbD 0 = true → r.en.getLsbD 0 = true → cyc < 4096 →
      ∃ t, exec (.dma0WrSt d) s = .next t ∧ OnlyChannel .ch0 s t ∧ t.rv = none ∧
        t.chan .ch0 = {
          dst := r.dst + n, src := r.src + n, len := 0#32, dir := r.dir,
          en := if r.len.getLsbD 31 then r.en else 0#32, st := 0#32, susp := r.susp ||| s.cfg.suspInd } ∧
        t.trace = s.trace ++ [.move mvDst mvSrc n, .raiseInt ⟨.ch0⟩] ∧ t.env = { s.env with mem := t.env.mem }) ∧
    (d.getLsbD 0 = true → r.en.getLsbD 0 = true → 4096 ≤ cyc →
      ∃ t, exec (.dma0WrSt d) s = .next t ∧ OnlyChannel .ch0 s t ∧ t.rv = none ∧
        t.chan .ch0 = { r with st := 1#32, susp := r.susp &&& ~~~s.cfg.suspInd } ∧
        t.trace = s.trace ++ [.move mvDst mvSrc n, .schedRequest .dma0 cyc] ∧
        t.env = { s.env with mem := t.env.mem, armDma0 := t.env.armDma0 }) ∧
    ((d.getLsbD 0 = false ∨ r.en.getLsbD 0 = false) → exec (.dma0WrSt d) s = .next { s with rv := none })

/-- The general-purpose triggers (42_dma R203, R204, R205, R206): log, move and complete within the operation, whatever
the length; both addresses advance, whatever the direction. -/
def Obligations.GeneralPurposeTriggerCompletesAtOnce : Prop :=
  ∀ (s : State) (c : Chan) (d : Word), c ≠ .ch0 →
    let r := s.chan c
    let n := r.len &&& 0x7FFFFFFF#32
    let mvDst := if r.dir.getLsbD 0 then r.src else r.dst
    let mvSrc := if r.dir.getLsbD 0 then r.dst else r.src
    decode s.cfg ⟨opwOf 2#2 1#1 2#2 (dmaSel c 0x18#5), d⟩ = wrSt c d ∧
    (d.getLsbD 0 = true → r.en.getLsbD 0 = true →
      ∃ t, exec (wrSt c d) s = .next t ∧ OnlyChannel c s t ∧ t.rv = none ∧
        t.chan c = {
          dst := r.dst + n, src := r.src + n, len := 0#32, dir := r.dir,
          en := if r.len.getLsbD 31 then r.en else 0#32, st := 0#32, susp := r.susp } ∧
        t.trace = s.trace ++ [.log (.dmaXfer c (r.dir.getLsbD 0) mvDst mvSrc n), .move mvDst mvSrc n, .raiseInt ⟨c⟩] ∧
        t.env = { s.env with mem := t.env.mem }) ∧
    ((d.getLsbD 0 = false ∨ r.en.getLsbD 0 = false) → exec (wrSt c d) s = .next { s with rv := none })

/-- The deferred completion (42_dma R207, with R200): with ST[0] bit 0 set, channel 0 completes from its registers as they
stand and raises its interrupt; with it clear nothing happens (the scheduler's own queue of H_DMA0 apart). -/
def Obligations.DeferredCompletionIsGuardedByBusy : Prop :=
  ∀ (s : State) (x : Word),
    let r := s.chan .ch0
    let n := r.len &&& 0x7FFFFFFF#32
    decode s.cfg ⟨0xC0000002#32, x⟩ = .dma0Done ∧
    (r.st.getLsbD 0 = true →
      ∃ t, exec .dma0Done s = .next t ∧ OnlyChannel .ch0 s t ∧ t.rv = none ∧
        t.chan .ch0 = {
          dst := r.dst + n, src := r.src + n, len := 0#32, dir := r.dir,
          en := if r.len.getLsbD 31 then r.en else 0#32, st := 0#32, susp := r.susp ||| s.cfg.suspInd } ∧
        t.trace = s.trace ++ [.raiseInt ⟨.ch0⟩] ∧ t.env = { s.env with armDma0 := t.env.armDma0 }) ∧
    (r.st.getLsbD 0 = false →
      ∃ t, exec .dma0Done s = .next t ∧ t = { s with env := { s.env with armDma0 := t.env.armDma0 }, rv := none })

/-- The primary channel's duration (42_dma R201): truncating division first, then the product, in naturals; 0 below
50,000,000 cycles per second, so that every transfer then completes inline. -/
def Obligations.CyclesAreNaturalProducts : Prop :=
  ∀ (cfg : Config) (n : Word),
    cycles cfg n = n.toNat * ((cfg.clock / 2) / 25000000) ∧
    (cfg.clock < 50000000 → inlineTransfer cfg n = true) ∧
    (cfg.clock = 200000000 → cycles cfg n = 4 * n.toNat)

/-- The shared end of every transfer, `Complete(c)` (42_dma R200), all four channels: the enable kept or cleared by LEN[c]
bit 31 as it stands, both addresses advanced, status and length cleared, the indicator set on channel 0 only, and then
exactly one interrupt. -/
def Obligations.CompleteSettlesTheRegisters : Prop :=
  ∀ (s : State) (c : Chan),
    let r := s.chan c
    let n := (r.len.extractLsb' 0 31).setWidth 32
    let t := s.complete c
    OnlyChannel c s t ∧ t.env = s.env ∧ t.trace = s.trace ++ [.raiseInt ⟨c⟩] ∧
    t.chan c =
      { dst := BitVec.ofNat 32 ((r.dst.toNat + n.toNat) % 2 ^ 32)
        src := BitVec.ofNat 32 ((r.src.toNat + n.toNat) % 2 ^ 32)
        len := 0#32
        dir := r.dir
        en := if r.len.getLsbD 31 = false then 0#32 else r.en
        st := 0#32
        susp := if c = .ch0 then r.susp ||| s.cfg.suspInd else r.susp }

/-- A triggered transfer and the flat memory (20_memory R64, R73, R75; 42_dma R199), all four channels, inline or
deferred, as any reader of that memory sees it, an instruction fetch included: no byte outside the destination range
changes; and where the ranges are backed, disjoint and do not wrap, each destination byte holds what its source byte held,
as soon as the trigger has run. -/
def Obligations.TriggerMovesTheBytes : Prop :=
  ∀ (s : State) (c : Chan) (d : Word), s.env.mem.wf → d.getLsbD 0 = true → (s.chan c).en.getLsbD 0 = true →
    let r := s.chan c
    let n := r.len.toNat % 2 ^ 31
    let dst := (if r.dir.getLsbD 0 then r.src else r.dst).toNat
    let src := (if r.dir.getLsbD 0 then r.dst else r.src).toNat
    ∃ t, exec (wrSt c d) s = .next t ∧
      (∀ a, a < 2 ^ 32 → n ≤ (a + 2 ^ 32 - dst) % 2 ^ 32 → t.memByte a = s.memByte a) ∧
      (dst + n ≤ 2 ^ 32 → src + n ≤ 2 ^ 32 → (dst + n ≤ src ∨ src + n ≤ dst) →
        (∃ g ∈ s.cfg.ram, g.base ≤ dst ∧ dst + n ≤ g.base + g.size) →
        (∃ g ∈ s.cfg.ram, g.base ≤ src ∧ src + n ≤ g.base + g.size) →
        ∀ i, i < n → t.memByte (dst + i) = s.memByte (src + i))

/-- No operation but a triggered transfer changes a byte of the flat memory (20_memory R60: it is reached by Move only). -/
def Obligations.OnlyTriggersTouchTheMemory : Prop :=
  ∀ (i : Instr) (s t : State), exec i s = .next t →
    (∀ c d, i = wrSt c d → d.getLsbD 0 = false ∨ (s.chan c).en.getLsbD 0 = false) →
    ∀ a, t.memByte a = s.memByte a

/-- A trigger on a busy channel 0 (42_dma R208): its move is emitted all the same, and whichever path it takes, the first
DMA0.DONE after it leaves the channel idle with exactly one interrupt raised, and a further one is a no-op. -/
def Obligations.RetriggerWhileBusyRaisesOnce : Prop :=
  ∀ (s : State) (d : Word), (s.chan .ch0).st.getLsbD 0 = true → d.getLsbD 0 = true →
    (s.chan .ch0).en.getLsbD 0 = true →
    ∃ t u ev, runAll [.dma0WrSt d, .dma0Done] s = .next t ∧ exec .dma0Done t = .next u ∧ t.trace = s.trace ++ ev ∧
      (∃ x y n, ev.head? = some (.move x y n)) ∧ raisedInts ev = 1 ∧ (t.chan .ch0).st = 0#32 ∧
      u.blk = t.blk ∧ u.trace = t.trace

/-- The phases (42_dma R210, 10_state R34): in a state that meets the invariant, channels 1 to 3 are idle after every
operation, and channel 0 is Completion-Pending afterwards exactly if the operation deferred a transfer, or it was
pending and the operation is none of DMA0.DONE, RESET and a trigger that completes inline; RESET leaves the scheduler
armed as it was. -/
def Obligations.PhaseTransitions : Prop :=
  ∀ (i : Instr) (s t : State), Inv s → exec i s = .next t →
    let trig := fun d : Word => d.getLsbD 0 = true ∧ (s.chan .ch0).en.getLsbD 0 = true
    let cyc := ((s.chan .ch0).len &&& 0x7FFFFFFF#32).toNat * (s.cfg.clock / 2 / 25000000)
    (∀ c, c ≠ .ch0 → (t.chan c).st.getLsbD 0 = false) ∧
    ((t.chan .ch0).st.getLsbD 0 = true ↔
      (∃ d, i = .dma0WrSt d ∧ trig d ∧ 4096 ≤ cyc) ∨
      ((s.chan .ch0).st.getLsbD 0 = true ∧ i ≠ .dma0Done ∧ (∀ seed, i ≠ .reset seed) ∧
        ¬ ∃ d, i = .dma0WrSt d ∧ trig d ∧ cyc < 4096)) ∧
    ((∃ seed, i = .reset seed) → t.env.armDma0 = s.env.armDma0)

/-- Interrupts (60_exceptions R232, R233): an operation raises at most one, and the interrupt of channel c exactly when
it completes a transfer of channel c. -/
def Obligations.InterruptsComeFromCompletions : Prop :=
  ∀ (i : Instr) (s t : State), exec i s = .next t → ∃ ev, t.trace = s.trace ++ ev ∧ raisedInts ev ≤ 1 ∧
    ∀ c, .raiseInt ⟨c⟩ ∈ ev ↔
      (∃ d, i = wrSt c d ∧ d.getLsbD 0 = true ∧ (s.chan c).en.getLsbD 0 = true ∧
        (c = .ch0 → ((s.chan c).len &&& 0x7FFFFFFF#32).toNat * (s.cfg.clock / 2 / 25000000) < 4096)) ∨
      (c = .ch0 ∧ i = .dma0Done ∧ (s.chan .ch0).st.getLsbD 0 = true)

/-- The error conditions (60_exceptions R231): each invalid access emits its diagnostic with what the table says is
recorded, reads 0 and changes nothing else; a disabled trigger and an unarmed half write record nothing and change nothing;
and no other operation emits a diagnostic. -/
def Obligations.DiagnosticsAreTheTables : Prop :=
  ∀ (i : Instr) (s t : State), exec i s = .next t →
    let recorded : Option Diag :=
      match i with
      | .rtcRdinv _ off => some (.rtcInvalidRead off)
      | .rtcWrinv _ off d => some (.rtcInvalidWrite off d)
      | .regRdBadw a => some (.regInvalidWidthRead a .b4)
      | .regWrBadw a d => some (.regInvalidWidthWrite a .b4 d)
      | .dmaRdRsvd c low => some (.dmaInvalidRegRead c low)
      | .dmaWrRsvd c low d => some (.dmaInvalidRegWrite c low d)
      | .dmaRdBadw w c low => some (.dmaInvalidWidthRead c low w.toWidth)
      | .dmaWrBadw w c low d => some (.dmaInvalidWidthWrite c low w.toWidth d)
      | _ => none
    (∀ d, recorded = some d →
      t = { s with trace := s.trace ++ [.diag d], rv := if isRead i then some 0#32 else none }) ∧
    (recorded = none → ∃ ev, t.trace = s.trace ++ ev ∧ ∀ d, .diag d ∉ ev) ∧
    (∀ c d, i = wrSt c d → (s.chan c).en.getLsbD 0 = false → t = { s with rv := none }) ∧
    (∀ w d, i = .rtcWrh w d ∨ i = .rtcWrl w d → s.blk.rtcEn = false → t = { s with rv := none })

/-- The scheduler's armed requests (10_state R35): only a delivery removes one and only a request adds one; in particular
RESET cancels none. That a delivery removes the oldest entry, that a tick's delivery removes one too, and what a second
request does under each value of `sched_rearm` are the model's choices, log entries 3 and 14. -/
def Obligations.ArmedRequestsAreNeverCancelled : Prop :=
  ∀ (i : Instr) (s t : State), exec i s = .next t →
    let request := fun (old new : List Nat) (delta : Nat) =>
      (s.cfg.schedRearm = .replace ∧ new = [delta]) ∨ (s.cfg.schedRearm = .queue ∧ new = old ++ [delta])
    let cyc := ((s.chan .ch0).len &&& 0x7FFFFFFF#32).toNat * (s.cfg.clock / 2 / 25000000)
    ((i = .dma0Done ∧ t.env.armDma0 = s.env.armDma0.tail) ∨
      (∃ d, i = .dma0WrSt d ∧ d.getLsbD 0 = true ∧ (s.chan .ch0).en.getLsbD 0 = true ∧ 4096 ≤ cyc ∧
        request s.env.armDma0 t.env.armDma0 cyc) ∨
      (i ≠ .dma0Done ∧
        (¬ ∃ d, i = .dma0WrSt d ∧ d.getLsbD 0 = true ∧ (s.chan .ch0).en.getLsbD 0 = true ∧ 4096 ≤ cyc) ∧
        t.env.armDma0 = s.env.armDma0)) ∧
    (if i = .rtcTick then request s.env.armRtc.tail t.env.armRtc s.cfg.clock else t.env.armRtc = s.env.armRtc)

/-- After an auto-repeat completion of a general-purpose channel (70_reset_and_hazards R265) a bare retrigger moves 0
bytes and interrupts again, and then the enable is clear. -/
def Obligations.BareRetriggerMovesNothing : Prop :=
  ∀ (s : State) (c : Chan) (d : Word), c ≠ .ch0 → d.getLsbD 0 = true → (s.chan c).en.getLsbD 0 = true →
    (s.chan c).len.getLsbD 31 = true →
    ∃ t u ev x y, exec (wrSt c d) s = .next t ∧ exec (wrSt c d) t = .next u ∧ u.trace = t.trace ++ ev ∧
      (t.chan c).en = (s.chan c).en ∧ .move x y 0#32 ∈ ev ∧ .raiseInt ⟨c⟩ ∈ ev ∧ (u.chan c).en = 0#32 ∧
      u.env.mem = t.env.mem

/-! ### Whole-machine rules -/

/-- The parts are independent (10_state R33). READING, of two states with the same configuration: what an operation leaves
in channel c, in the RTC, or in the latch pair depends on that part alone; the result and the events of an operation of
channel c depend on channel c alone, those of an RTC operation on the counter alone, those of a REG operation on the latch
pair and the environment's answers alone, and RESET's on nothing. WRITING: an operation writes no channel but its own; an
operation of a channel writes neither the RTC nor the latch pair, an RTC operation no latch pair and no channel, a REG
operation no RTC and no channel. -/
def Obligations.PartsAreIndependent : Prop :=
  ∀ (i : Instr) (s s' t t' : State), s.cfg = s'.cfg → exec i s = .next t → exec i s' = .next t' →
    let alike := t.rv = t'.rv ∧ ∃ ev, t.trace = s.trace ++ ev ∧ t'.trace = s'.trace ++ ev
    (∀ c, s.chan c = s'.chan c → t.chan c = t'.chan c) ∧
    (s.blk.rtc = s'.blk.rtc → s.blk.rtcEn = s'.blk.rtcEn → t.blk.rtc = t'.blk.rtc ∧ t.blk.rtcEn = t'.blk.rtcEn) ∧
    (s.blk.armrst = s'.blk.armrst → s.blk.vreg = s'.blk.vreg →
      t.blk.armrst = t'.blk.armrst ∧ t.blk.vreg = t'.blk.vreg) ∧
    (∀ c, channelOf i = some c → s.chan c = s'.chan c → alike ∧ (s.env = s'.env → t.env = t'.env)) ∧
    (partOf i = some .rtc → s.blk.rtc = s'.blk.rtc → alike ∧ (s.env = s'.env → t.env = t'.env)) ∧
    (partOf i = some .latch → s.blk.armrst = s'.blk.armrst → s.blk.vreg = s'.blk.vreg → s.env = s'.env →
      alike ∧ t.env = t'.env) ∧
    (partOf i = none → alike ∧ t.env = s.env) ∧
    (∀ c, t.chan c = s.chan c ∨ channelOf i = some c ∨ ∃ seed, i = .reset seed) ∧
    (∀ c, channelOf i = some c → t.blk.rtc = s.blk.rtc ∧ t.blk.rtcEn = s.blk.rtcEn ∧ t.blk.armrst = s.blk.armrst ∧
      t.blk.vreg = s.blk.vreg) ∧
    (partOf i = some .rtc → t.blk.armrst = s.blk.armrst ∧ t.blk.vreg = s.blk.vreg ∧ ∀ c, t.chan c = s.chan c) ∧
    (partOf i = some .latch → t.blk.rtc = s.blk.rtc ∧ t.blk.rtcEn = s.blk.rtcEn ∧ ∀ c, t.chan c = s.chan c) ∧
    (partOf i = some .dma ↔ ∃ c, channelOf i = some c)

/-- Reads (20_memory R69): a read of an intercepted register changes nothing but the read result and is idempotent; any
other read changes no register and no memory and emits exactly one event. -/
def Obligations.ReadsHaveNoSideEffect : Prop :=
  ∀ (i : Instr) (s t : State), exec i s = .next t →
    (isPlainRead i = true → t = { s with rv := t.rv } ∧ exec i t = .next t) ∧
    (isRead i = true → isPlainRead i = false → t.blk = s.blk ∧ t.env.mem = s.env.mem ∧ ∃ e, t.trace = s.trace ++ [e])

/-- The tick and the deferred completion commute (60_exceptions R234), but for the order of their events. -/
def Obligations.TickAndCompletionCommute : Prop :=
  ∀ (s : State), ∃ t u, runAll [.rtcTick, .dma0Done] s = .next t ∧ runAll [.dma0Done, .rtcTick] s = .next u ∧
    t.blk = u.blk ∧ t.env = u.env ∧ t.trace.Perm u.trace

/-! ### Scripts -/

/-- The clock-setting sequence (70_reset_and_hazards R264, 30_encoding R98): three steps from any state with the script
offered leave the counter at v and the latch clear. -/
def Obligations.ClockSettingScript : Prop :=
  ∀ (s : State) (v : Word), Host.Core.run Sys2Proof.core 3 (s.offerScript (rtcSet v)) =
    .next { s with blk := { s.blk with rtc := v, rtcEn := false }, rv := none }

/-- The other pseudo-operations (30_encoding R98), run from any state with the script offered. `dma.xfer` is one transfer,
given in full: its events, of which exactly one is a move, the channel's seven registers and the flat memory, for a
general-purpose channel and for channel 0 inline and deferred (42_dma R199 to R203). What a request does to the scheduler's
queue is in `ArmedRequestsAreNeverCancelled`. -/
def Obligations.PseudoOperationScripts : Prop :=
  ∀ (s : State) (c : Chan) (src dst n dir : Word),
    (Host.Core.run Sys2Proof.core 1 (s.offerScript rtcLock) =
      .next { s with blk := { s.blk with rtcEn := false }, rv := none }) ∧
    (Host.Core.run Sys2Proof.core 1 (s.offerScript (copHold s.cfg)) = .next { s with
      blk := { s.blk with armrst := 1#8 }, env := { s.env with copEnabled := some false },
      trace := s.trace ++ [.copSetEnabled false], rv := none }) ∧
    (Host.Core.run Sys2Proof.core 1 (s.offerScript (copRelease s.cfg)) = .next { s with
      blk := { s.blk with armrst := 0#8 }, env := { s.env with copEnabled := some true },
      trace := s.trace ++ [.copSetEnabled true], rv := none }) ∧
    (let cnt := n &&& 0x7FFFFFFF#32
     let mvDst := if dir.getLsbD 0 then src else dst
     let mvSrc := if dir.getLsbD 0 then dst else src
     let cyc := cnt.toNat * (s.cfg.clock / 2 / 25000000)
     let susp := (s.chan c).susp
     let completed : Channel := {
       dst := dst + cnt, src := src + cnt, len := 0#32, dir := dir,
       en := if n.getLsbD 31 then 1#32 else 0#32, st := 0#32, susp := if c = .ch0 then susp ||| s.cfg.suspInd else susp }
     ∃ t, Host.Core.run Sys2Proof.core 6 (s.offerScript (dmaXfer c src dst n dir)) = .next t ∧
       OnlyChannel c s t ∧ t.rv = none ∧ t.env.mem = s.env.mem.move s.cfg.ram mvDst mvSrc cnt ∧
       (c ≠ .ch0 → t.chan c = completed ∧ t.env = { s.env with mem := t.env.mem } ∧
         t.trace = s.trace ++ [.log (.dmaXfer c (dir.getLsbD 0) mvDst mvSrc cnt), .move mvDst mvSrc cnt, .raiseInt ⟨c⟩]) ∧
       (c = .ch0 → cyc < 4096 → t.chan c = completed ∧ t.env = { s.env with mem := t.env.mem } ∧
         t.trace = s.trace ++ [.move mvDst mvSrc cnt, .raiseInt ⟨c⟩]) ∧
       (c = .ch0 → 4096 ≤ cyc → t.chan c = ⟨dst, src, n, dir, 1#32, 1#32, susp &&& ~~~s.cfg.suspInd⟩ ∧
         t.env = { s.env with mem := t.env.mem, armDma0 := t.env.armDma0 } ∧
         t.trace = s.trace ++ [.move mvDst mvSrc cnt, .schedRequest .dma0 cyc]))

/-! ### The address map and the end of a run -/

/-- What a bus address reaches (00_scope R7; 20_memory R61, R62, R63, R70), at every access width and wherever the platform
puts the three windows: in the RTC window the offset is the address under `RTC_OFF_MASK`; in the REG window the address is
masked to 15 bits, for which see `RegDispatchFollowsTheMaskedAddress`; in the DMA window register `r` of channel `c` is at
the base plus 0x20 times c plus 4 times its index; anywhere else the access is not the block's. That the windows are ranges
of addresses, the RTC's before the REG's before the DMA's where they overlap, is the model's choice, log entry 20. -/
def Obligations.BusAddressesReachTheRegisters : Prop :=
  ∀ (cfg : Config) (w : Width) (addr d : Word),
    let within := fun r : Region => r.base ≤ addr.toNat ∧ addr.toNat < r.base + r.size
    let off := addr.extractLsb' 0 8 &&& cfg.rtcOffMask
    let reaches := fun (i j : Instr) => ∃ r x, busWord cfg 0#1 w addr = some r ∧ busWord cfg 1#1 w addr = some x ∧
      decode cfg ⟨r, d⟩ = i ∧ decode cfg ⟨x, d⟩ = j
    (within cfg.rtcWindow →
      (off = 0#8 → reaches (.rtcRdh w) (.rtcWrh w d)) ∧ (off = 4#8 → reaches (.rtcRdl w) (.rtcWrl w d)) ∧
      (off = 8#8 → reaches (.rtcRden w) (.rtcWren w d)) ∧
      (off ≠ 0#8 → off ≠ 4#8 → off ≠ 8#8 → reaches (.rtcRdinv w off) (.rtcWrinv w off d))) ∧
    (¬ within cfg.rtcWindow → within cfg.regWindow →
      busWord cfg 0#1 w addr = some (Line.op (.rdReg w addr)).opw ∧
      busWord cfg 1#1 w addr = some (Line.op (.wrReg w addr d)).opw) ∧
    (¬ within cfg.rtcWindow → ¬ within cfg.regWindow → within cfg.dmaWindow → w = .b4 → ∀ (c : Chan) (r : DmaReg),
      addr.toNat = cfg.dmaWindow.base + 0x20 * Chan.num c + 4 * r.idx →
      busWord cfg 0#1 w addr = some (Line.op (.rdDma c r)).opw ∧
      busWord cfg 1#1 w addr = some (Line.op (.wrDma c r d)).opw) ∧
    (¬ within cfg.rtcWindow → ¬ within cfg.regWindow → ¬ within cfg.dmaWindow →
      ∀ rw, busWord cfg rw w addr = none)

/-- The end of a run: with a completion outstanding on H_DMA0 it is not over (10_state R35(d)); that it is over as soon as
none is outstanding and no operation is offered, H_RTC armed or not, is the model's choice, log entry 21; and from a state that meets the invariant with nothing offered, delivering DMA0.DONE once for every outstanding
request ends it, with channel 0 idle ("the transfer WILL complete", 00_scope R6(c)). That the operations offered stand in a
queue and that a step with none is refused is the model's choice, log entry 9. -/
def Obligations.RunIsOverWhenNothingIsOutstanding : Prop :=
  (∀ s : State, s.runOver = true ↔ s.pending = [] ∧ s.env.armDma0 = []) ∧
  (∀ s : State, step s = .refused .noOperationOffered ↔ s.runOver = true) ∧
  (∀ s : State, step s = .refused .completionOutstanding ↔ s.pending = [] ∧ s.env.armDma0 ≠ []) ∧
  (∀ s : State, Inv s → s.pending = [] →
    let k := s.env.armDma0.length
    ∃ t, Host.Core.run Sys2Proof.core k { s with pending := List.replicate k ⟨0xC0000002#32, 0#32⟩ } = .next t ∧
      t.runOver = true ∧ (t.chan .ch0).st = 0#32)
end

