-- ==== Sys2Proof/Laws/Decode.lean ====
section
/-! SUPPORT. The fields of operation words, and the decoder read off the fields: `decode_eq_decodeFields` says that the
first matching row of spec/30_encoding.md R95 is what the fields of R91 and R92 say. -/

namespace Sys2Proof
open Machine

/-- Operation words are equal when their fields are. -/

theorem opw_eq_iff (a b : Word) : a = b ↔
    opwPort a = opwPort b ∧ opwRw a = opwRw b ∧ opwWc a = opwWc b ∧ opwZ a = opwZ b ∧ opwSel a = opwSel b := by
  constructor
  · rintro rfl; exact ⟨rfl, rfl, rfl, rfl, rfl⟩
  · rintro ⟨h1, h2, h3, h4, h5⟩
    apply BitVec.eq_of_getLsbD_eq
    intro i hi
    have field : ∀ {lo n : Nat}, a.extractLsb' lo n = b.extractLsb' lo n → lo ≤ i → i < lo + n →
        a.getLsbD i = b.getLsbD i := by
      intro lo n h hlo hn
      have hl := congrArg (·.getLsbD (i - lo)) h
      simpa [BitVec.getLsbD_extractLsb', show i - lo < n by omega, show lo + (i - lo) = i by omega] using hl
    by_cases c1 : i < 15
    · exact field h5 (by omega) (by omega)
    · by_cases c2 : i < 27
      · exact field h4 (by omega) (by omega)
      · by_cases c3 : i < 29
        · exact field h3 (by omega) (by omega)
        · by_cases c4 : i < 30
          · exact field h2 (by omega) (by omega)
          · exact field h1 (by omega) (by omega)

/-- A row of R95 matches when each field matches. -/
theorem row_iff (w mask mtch : Word) : w &&& mask = mtch ↔
    opwPort w &&& opwPort mask = opwPort mtch ∧ opwRw w &&& opwRw mask = opwRw mtch ∧
    opwWc w &&& opwWc mask = opwWc mtch ∧ opwZ w &&& opwZ mask = opwZ mtch ∧ opwSel w &&& opwSel mask = opwSel mtch := by
  rw [opw_eq_iff]
  simp only [opwPort, opwRw, opwWc, opwZ, opwSel, BitVec.extractLsb'_and]

section
variable (p : BitVec 2) (r : BitVec 1) (c : BitVec 2) (s : RegAddr)

@[simp] theorem opwPort_opwOf : opwPort (opwOf p r c s) = p := by
  apply BitVec.eq_of_getLsbD_eq; intro i hi
  interval_cases i <;> simp [opwPort, opwOf]

@[simp] theorem opwRw_opwOf : opwRw (opwOf p r c s) = r := by
  apply BitVec.eq_of_getLsbD_eq; intro i hi
  obtain rfl : i = 0 := by omega
  simp [opwRw, opwOf]

@[simp] theorem opwWc_opwOf : opwWc (opwOf p r c s) = c := by
  apply BitVec.eq_of_getLsbD_eq; intro i hi
  interval_cases i <;> simp [opwWc, opwOf]

@[simp] theorem opwZ_opwOf : opwZ (opwOf p r c s) = 0#12 := by
  apply BitVec.eq_of_getLsbD_eq; intro i hi
  interval_cases i <;> simp [opwZ, opwOf]

@[simp] theorem opwSel_opwOf : opwSel (opwOf p r c s) = s := by
  apply BitVec.eq_of_getLsbD_eq; intro i hi
  interval_cases i <;> simp [opwSel, opwOf]

/-- The fields put together again give the word. -/

theorem opwOf_fields (w : Word) (hz : opwZ w = 0#12) :
    opwOf (opwPort w) (opwRw w) (opwWc w) (opwSel w) = w := by
  rw [opw_eq_iff]
  simp [opwPort_opwOf, opwRw_opwOf, opwWc_opwOf, opwZ_opwOf, opwSel_opwOf, hz]

@[simp] theorem selOff_rtcSel (off : BitVec 8) : selOff (rtcSel off) = off := by
  apply BitVec.eq_of_getLsbD_eq; intro i hi
  interval_cases i <;> simp [selOff, rtcSel]

@[simp] theorem selRtcHigh_rtcSel (off : BitVec 8) : selRtcHigh (rtcSel off) = 0#7 := by
  apply BitVec.eq_of_getLsbD_eq; intro i hi
  interval_cases i <;> simp [selRtcHigh, rtcSel]

theorem rtcSel_selOff (s : RegAddr) (h : selRtcHigh s = 0#7) : rtcSel (selOff s) = s := by
  apply BitVec.eq_of_getLsbD_eq; intro i hi
  have hb : ∀ j, j < 7 → s.getLsbD (8 + j) = false := by
    intro j hj
    have := congrArg (·.getLsbD j) h
    simpa [selRtcHigh, hj] using this
  by_cases h8 : i < 8
  · simp [rtcSel, selOff, h8, hi]
  · have := hb (i - 8) (by omega)
    rw [show 8 + (i - 8) = i by omega] at this
    simp [rtcSel, selOff, h8, this]

@[simp] theorem Chan.ofBits_bits (c : Chan) : Chan.ofBits c.bits = c := by cases c <;> rfl

@[simp] theorem Chan.bits_ofBits (b : BitVec 2) : (Chan.ofBits b).bits = b := by
  revert b; decide

@[simp] theorem selChan_dmaSel (c : Chan) (low : BitVec 5) : selChan (dmaSel c low) = c := by
  have : (dmaSel c low).extractLsb' 5 2 = c.bits := by
    apply BitVec.eq_of_getLsbD_eq; intro i hi
    interval_cases i <;> simp [dmaSel]
  rw [selChan, this, Chan.ofBits_bits]

@[simp] theorem selLow_dmaSel (c : Chan) (low : BitVec 5) : selLow (dmaSel c low) = low := by
  apply BitVec.eq_of_getLsbD_eq; intro i hi
  interval_cases i <;> simp [selLow, dmaSel]

@[simp] theorem selDmaHigh_dmaSel (c : Chan) (low : BitVec 5) : selDmaHigh (dmaSel c low) = 0#8 := by
  apply BitVec.eq_of_getLsbD_eq; intro i hi
  interval_cases i <;> simp [selDmaHigh, dmaSel]

theorem dmaSel_fields (s : RegAddr) (h : selDmaHigh s = 0#8) : dmaSel (selChan s) (selLow s) = s := by
  apply BitVec.eq_of_getLsbD_eq; intro i hi
  have hb : ∀ j, j < 8 → s.getLsbD (7 + j) = false := by
    intro j hj
    have := congrArg (·.getLsbD j) h
    simpa [selDmaHigh, hj] using this
  simp only [dmaSel, selChan, Chan.bits_ofBits, selLow]
  by_cases h5 : i < 5
  · interval_cases i <;> simp
  · by_cases h7 : i < 7
    · interval_cases i <;> simp at h5 ⊢
    · have := hb (i - 7) (by omega)
      rw [show 7 + (i - 7) = i by omega] at this
      simp [this, show ¬ i - 5 < 2 by omega, show ¬ i < 5 by omega]
end

theorem sel_rtc_iff (a b : RegAddr) : a = b ↔ selRtcHigh a = selRtcHigh b ∧ selOff a = selOff b := by
  constructor
  · rintro rfl; exact ⟨rfl, rfl⟩
  · rintro ⟨h1, h2⟩
    apply BitVec.eq_of_getLsbD_eq
    intro i hi
    by_cases c : i < 8
    · have := congrArg (·.getLsbD i) h2
      simpa [selOff, c] using this
    · have := congrArg (·.getLsbD (i - 8)) h1
      simpa [selRtcHigh, show i - 8 < 7 by omega, show 8 + (i - 8) = i by omega] using this

theorem sel_dma_iff (a b : RegAddr) : a = b ↔
    selDmaHigh a = selDmaHigh b ∧ selChan a = selChan b ∧ selLow a = selLow b := by
  constructor
  · rintro rfl; exact ⟨rfl, rfl, rfl⟩
  · rintro ⟨h1, h2, h3⟩
    have h2' : a.extractLsb' 5 2 = b.extractLsb' 5 2 := by
      have := congrArg Chan.bits h2
      simpa [selChan, Chan.bits_ofBits] using this
    apply BitVec.eq_of_getLsbD_eq
    intro i hi
    by_cases c : i < 5
    · have := congrArg (·.getLsbD i) h3
      simpa [selLow, c] using this
    · by_cases c' : i < 7
      · have := congrArg (·.getLsbD (i - 5)) h2'
        simpa [show i - 5 < 2 by omega, show 5 + (i - 5) = i by omega] using this
      · have := congrArg (·.getLsbD (i - 7)) h1
        simpa [selDmaHigh, show i - 7 < 8 by omega, show 7 + (i - 7) = i by omega] using this

theorem and_full1 (x : BitVec 1) : x &&& 1#1 = x := BitVec.and_allOnes
theorem and_full2 (x : BitVec 2) : x &&& 3#2 = x := BitVec.and_allOnes
theorem and_full5 (x : BitVec 5) : x &&& 31#5 = x := BitVec.and_allOnes
theorem and_full7 (x : BitVec 7) : x &&& 127#7 = x := BitVec.and_allOnes
theorem and_full8 (x : BitVec 8) : x &&& 255#8 = x := BitVec.and_allOnes
theorem and_full12 (x : BitVec 12) : x &&& 4095#12 = x := BitVec.and_allOnes
theorem and_full15 (x : BitVec 15) : x &&& 32767#15 = x := BitVec.and_allOnes

theorem sel_and_rtcHigh (s : RegAddr) : s &&& 32512#15 = 0#15 ↔ selRtcHigh s = 0#7 := by
  rw [sel_rtc_iff]
  simp only [selRtcHigh, selOff, BitVec.extractLsb'_and]
  simp [and_full7]

theorem sel_and_dmaHigh (s : RegAddr) : s &&& 32640#15 = 0#15 ↔ selDmaHigh s = 0#8 := by
  have h0 : Chan.ofBits 0#2 = .ch0 := rfl
  rw [sel_dma_iff]
  simp only [selDmaHigh, selChan, selLow, BitVec.extractLsb'_and]
  simp [and_full8]

theorem sel_and_dmaReg (s v : RegAddr) (hv : selChan v = .ch0) : s &&& 32671#15 = v ↔
    selDmaHigh s = selDmaHigh v ∧ selLow s = selLow v := by
  rw [sel_dma_iff, hv]
  simp only [selDmaHigh, selChan, selLow, BitVec.extractLsb'_and]
  simp [and_full8, and_full5, Chan.ofBits]

theorem opwOf_regWord (a : RegAddr) :
    0x40000000#32 ||| a.setWidth 32 = opwOf 1#2 0#1 0#2 a ∧ 0x60000000#32 ||| a.setWidth 32 = opwOf 1#2 1#1 0#2 a ∧
    0x48000000#32 ||| a.setWidth 32 = opwOf 1#2 0#1 1#2 a ∧ 0x68000000#32 ||| a.setWidth 32 = opwOf 1#2 1#1 1#2 a := by
  simp [opwOf]

/-- The decoder as a case analysis on the fields of the operation word (30_encoding R91, R92, R96). -/
def decodeFields (cfg : Config) (o : Op) : Instr :=
  let w := Width.ofCode (opwWc o.opw)
  let nw := Narrow.ofCode (opwWc o.opw)
  let sel := opwSel o.opw
  let c := selChan sel
  let low := selLow sel
  if opwWc o.opw = 3#2 ∨ opwZ o.opw ≠ 0#12 then .opwInvalid o.opw
  else if opwPort o.opw = 0#2 then
    if selRtcHigh sel ≠ 0#7 then .opwInvalid o.opw
    else if opwRw o.opw = 0#1 then
      if selOff sel = 0#8 then .rtcRdh w
      else if selOff sel = 4#8 then .rtcRdl w
      else if selOff sel = 8#8 then .rtcRden w
      else .rtcRdinv w (selOff sel)
    else
      if selOff sel = 0#8 then .rtcWrh w o.data
      else if selOff sel = 4#8 then .rtcWrl w o.data
      else if selOff sel = 8#8 then .rtcWren w o.data
      else .rtcWrinv w (selOff sel) o.data
  else if opwPort o.opw = 1#2 then
    if opwWc o.opw = 2#2 then
      if opwRw o.opw = 0#1 then .regRdBadw sel else .regWrBadw sel o.data
    else if opwWc o.opw = 0#2 ∧ sel = cfg.aRst then
      if opwRw o.opw = 0#1 then .regRd8Rst else .regWr8Rst o.data
    else if opwWc o.opw = 0#2 ∧ sel = aVreg cfg then
      if opwRw o.opw = 0#1 then .regRd8Vreg else .regWr8Vreg o.data
    else if opwWc o.opw = 1#2 ∧ sel = cfg.aRst then
      if opwRw o.opw = 0#1 then .regRd16Pair else .regWr16Pair o.data
    else if opwRw o.opw = 0#1 then .regRdPass nw sel else .regWrPass nw sel o.data
  else if opwPort o.opw = 2#2 then
    if selDmaHigh sel ≠ 0#8 then .opwInvalid o.opw
    else if opwWc o.opw ≠ 2#2 then
      if opwRw o.opw = 0#1 then .dmaRdBadw nw c low else .dmaWrBadw nw c low o.data
    else if opwRw o.opw = 0#1 then
      if low = 0x00#5 then .dmaRdDst c
      else if low = 0x04#5 then .dmaRdSrc c
      else if low = 0x08#5 then .dmaRdLen c
      else if low = 0x0C#5 then .dmaRdDir c
      else if low = 0x14#5 then .dmaRdEn c
      else if low = 0x18#5 then .dmaRdSt c
      else if low = 0x1C#5 then .dmaRdSusp c
      else .dmaRdRsvd c low
    else
      if low = 0x00#5 then .dmaWrDst c o.data
      else if low = 0x04#5 then .dmaWrSrc c o.data
      else if low = 0x08#5 then .dmaWrLen c o.data
      else if low = 0x0C#5 then .dmaWrDir c o.data
      else if low = 0x14#5 then .dmaWrEn c o.data
      else if low = 0x1C#5 then .dmaWrSusp c o.data
      else if low = 0x18#5 then
        match c with
        | .ch0 => .dma0WrSt o.data
        | .ch1 => .dma1WrSt o.data
        | .ch2 => .dma2WrSt o.data
        | .ch3 => .dma3WrSt o.data
      else .dmaWrRsvd c low o.data
  else if opwRw o.opw ≠ 0#1 ∨ opwWc o.opw ≠ 0#2 then .opwInvalid o.opw
  else if sel = 0#15 then .reset o.data
  else if sel = 1#15 then .rtcTick
  else if sel = 2#15 then .dma0Done
  else .opwInvalid o.opw

theorem bitVec2_cases (x : BitVec 2) : x = 0#2 ∨ x = 1#2 ∨ x = 2#2 ∨ x = 3#2 := by revert x; decide
theorem bitVec1_cases (x : BitVec 1) : x = 0#1 ∨ x = 1#1 := by revert x; decide

/-- First match over the 44 rows of R95 is the case analysis on the fields. -/
theorem decode_eq_decodeFields (cfg : Config) (o : Op) : decode cfg o = decodeFields cfg o := by
  obtain ⟨w, data⟩ := o
  simp only [decode, rows, rowsRtc, rowsReg, rowsDmaPlain, rowsRest, List.cons_append, List.nil_append, decodeRows,
    (opwOf_regWord _).1, (opwOf_regWord _).2.1, (opwOf_regWord _).2.2.1, (opwOf_regWord _).2.2.2, row_iff,
    opwPort_opwOf, opwRw_opwOf, opwWc_opwOf, opwZ_opwOf, opwSel_opwOf]
  simp only [decodeFields]
  generalize hp : opwPort w = p
  generalize hr : opwRw w = r
  generalize hc : opwWc w = c
  generalize hz : opwZ w = z
  generalize hs : opwSel w = s
  simp only [opwPort, opwRw, opwWc, opwZ, opwSel, BitVec.reduceExtractLsb', and_full1, and_full2, and_full12, and_full15,
    BitVec.and_zero, and_true, true_and]
  by_cases hc3 : c = 3#2
  · simp [hc3]
  by_cases hz : z = 0#12
  swap
  · simp [hc3, hz]
  rcases bitVec2_cases p with rfl | rfl | rfl | rfl
  · -- RTC
    simp only [sel_and_rtcHigh, sel_rtc_iff s 0#15, sel_rtc_iff s 4#15, sel_rtc_iff s 8#15]
    simp only [selRtcHigh, selOff, BitVec.reduceExtractLsb']
    by_cases hh : s.extractLsb' 8 7 = 0#7 <;> rcases bitVec1_cases r with rfl | rfl <;> simp [hc3, hz, hh] <;> congr!
  · -- REG
    rcases bitVec1_cases r with rfl | rfl <;> rcases bitVec2_cases c with rfl | rfl | rfl | rfl <;> simp [hz] at hc3 ⊢
  · -- DMA
    simp only [sel_and_dmaHigh, sel_and_dmaReg s 0#15 rfl, sel_and_dmaReg s 4#15 rfl, sel_and_dmaReg s 8#15 rfl,
      sel_and_dmaReg s 12#15 rfl, sel_and_dmaReg s 20#15 rfl, sel_and_dmaReg s 24#15 rfl, sel_and_dmaReg s 28#15 rfl,
      sel_dma_iff s 24#15, sel_dma_iff s 56#15, sel_dma_iff s 88#15, sel_dma_iff s 120#15]
    have e1 : selChan 24#15 = .ch0 ∧ selChan 56#15 = .ch1 ∧ selChan 88#15 = .ch2 ∧ selChan 120#15 = .ch3 := by decide
    simp only [e1.1, e1.2.1, e1.2.2.1, e1.2.2.2]
    simp only [selDmaHigh, selLow, BitVec.reduceExtractLsb']
    by_cases hh : s.extractLsb' 7 8 = 0#8 <;> rcases bitVec1_cases r with rfl | rfl <;>
      by_cases hc2 : c = 2#2 <;> simp [hc3, hz, hh, hc2]
    · congr!
    · cases selChan s <;> simp <;> congr!
  · -- EVT
    rcases bitVec1_cases r with rfl | rfl <;> by_cases hc0 : c = 0#2 <;> simp [hc3, hz, hc0]
end Sys2Proof
end

