-- ==== Sys2Proof/Laws/Memory.lean ====
section
/-! SUPPORT. The laws of the flat memory: read after write, the canonical form, and what a move does to each byte. -/

namespace Sys2Proof
open Machine

theorem Machine.Memory.read_write_self (m : Memory) (a : Nat) (b : Byte) : (Memory.write a b m).read a = some b := by
  induction m with
  | nil => simp [Memory.write, Memory.read]
  | cons x m ih =>
    obtain ⟨k, v⟩ := x
    simp only [Memory.write]
    split
    · simp [Memory.read]
    · split
      · simp [Memory.read]
      · rename_i h1 h2
        simp [Memory.read, ih, Ne.symm h2]

theorem Machine.Memory.read_write_other (m : Memory) {a a' : Nat} (b : Byte) (h : a' ≠ a) :
    (Memory.write a b m).read a' = m.read a' := by
  induction m with
  | nil => simp [Memory.write, Memory.read, Ne.symm h]
  | cons x m ih =>
    obtain ⟨k, v⟩ := x
    simp only [Memory.write]
    split
    · simp [Memory.read, Ne.symm h]
    · split
      · rename_i h1 h2
        subst h2
        simp [Memory.read, Ne.symm h]
      · simp [Memory.read, ih]

theorem Machine.Memory.mem_write {m : Memory} {a : Nat} {b : Byte} {x : Host.Cell} (h : x ∈ Memory.write a b m) :
    x = (a, b) ∨ x ∈ m := by
  induction m with
  | nil => simpa [Memory.write] using h
  | cons y m ih =>
    obtain ⟨k, v⟩ := y
    simp only [Memory.write] at h
    split at h
    · simpa using h
    · split at h
      · simp only [List.mem_cons] at h ⊢; tauto
      · simp only [List.mem_cons] at h ⊢
        rcases h with h | h
        · tauto
        · have := ih h; tauto

theorem Machine.Memory.write_wf {m : Memory} (h : m.wf) {a : Nat} (ha : a < 2 ^ 32) (b : Byte) :
    (Memory.write a b m).wf := by
  obtain ⟨hp, hb⟩ := h
  constructor
  · induction m with
    | nil => simp [Memory.write]
    | cons y m ih =>
      obtain ⟨k, v⟩ := y
      rw [List.pairwise_cons] at hp
      have ih' := ih hp.2 (fun x hx => hb x (List.mem_cons_of_mem _ hx))
      simp only [Memory.write]
      split
      · rename_i hlt
        refine List.pairwise_cons.2 ⟨?_, List.pairwise_cons.2 hp⟩
        intro x hx
        rcases List.mem_cons.1 hx with rfl | hx
        · exact hlt
        · exact lt_trans hlt (hp.1 x hx)
      · split
        · rename_i h1 h2
          subst h2
          exact List.pairwise_cons.2 hp
        · rename_i h1 h2
          refine List.pairwise_cons.2 ⟨?_, ih'⟩
          intro x hx
          rcases Memory.mem_write hx with rfl | hx
          · exact lt_of_le_of_ne (not_lt.1 h1) (Ne.symm h2)
          · exact hp.1 x hx
  · intro x hx
    rcases Memory.mem_write hx with rfl | hx
    · exact ha
    · exact hb x hx

theorem Machine.Memory.erase_wf {m : Memory} (h : m.wf) (dst n : Word) : (m.erase dst n).wf :=
  ⟨h.1.filter _, fun x hx => h.2 x (List.mem_filter.1 hx).1⟩

theorem Machine.Memory.writeAll_wf {m : Memory} (h : m.wf) (cells : List Host.Cell) (hc : ∀ x ∈ cells, x.1 < 2 ^ 32) :
    Memory.wf (cells.foldr (fun x acc => Memory.write x.1 x.2 acc) m) := by
  induction cells with
  | nil => exact h
  | cons x cells ih =>
    exact Memory.write_wf (ih fun y hy => hc y (List.mem_cons_of_mem _ hy)) (hc x (List.mem_cons_self ..)) _

theorem Machine.Memory.copied_addr {m : Memory} {dst src n : Word} {x : Host.Cell} (h : x ∈ m.copied dst src n) :
    x.1 < 2 ^ 32 := by
  simp only [Memory.copied, List.mem_filterMap] at h
  obtain ⟨y, -, hy⟩ := h
  split at hy
  · simp only [Option.some.injEq] at hy
    subst hy
    exact BitVec.isLt _
  · simp at hy

theorem Machine.Memory.move_wf {m : Memory} (h : m.wf) (ram : List Region) (dst src n : Word) :
    (m.move ram dst src n).wf := by
  unfold Memory.move
  split
  · exact Memory.writeAll_wf (Memory.erase_wf h dst n) _ fun x hx => Memory.copied_addr hx
  · exact Memory.erase_wf h dst n

theorem Machine.Memory.read_erase (m : Memory) (dst n : Word) (a : Nat) :
    (m.erase dst n).read a = if inRange dst n a then none else m.read a := by
  induction m with
  | nil => simp [Memory.erase, Memory.read]
  | cons x m ih =>
    obtain ⟨k, v⟩ := x
    unfold Memory.erase at ih ⊢
    rw [List.filter_cons]
    by_cases hk : k = a
    · subst hk
      cases hr : inRange dst n k <;> simp [Memory.read, hr, ih]
    · cases hr : inRange dst n k <;> simp [Memory.read, hk, ih]

theorem Machine.Memory.read_writeAll_other (m : Memory) (cells : List Host.Cell) {a : Nat} (h : ∀ x ∈ cells, x.1 ≠ a) :
    Memory.read (cells.foldr (fun x acc => Memory.write x.1 x.2 acc) m) a = m.read a := by
  induction cells with
  | nil => rfl
  | cons x cells ih =>
    rw [List.foldr_cons, Memory.read_write_other _ _ (Ne.symm (h x (List.mem_cons_self ..)))]
    exact ih fun y hy => h y (List.mem_cons_of_mem _ hy)

theorem Machine.Memory.copied_inRange {m : Memory} {dst src n : Word} {x : Host.Cell} (h : x ∈ m.copied dst src n) :
    inRange dst n x.1 = true := by
  simp only [Memory.copied, List.mem_filterMap] at h
  obtain ⟨y, -, hy⟩ := h
  split at hy
  · rename_i hr
    simp only [Option.some.injEq] at hy
    subst hy
    simpa only [inRange, BitVec.ofNat_toNat, BitVec.setWidth_eq, BitVec.add_sub_cancel] using hr
  · simp at hy

/-- A move leaves every byte outside its destination range alone. -/
theorem Machine.Memory.read_move_outside (m : Memory) (ram : List Region) (dst src n : Word) {a : Nat}
    (h : inRange dst n a = false) : (m.move ram dst src n).read a = m.read a := by
  unfold Memory.move
  split
  · rw [Memory.read_writeAll_other, Memory.read_erase, h]
    · rfl
    · intro x hx he
      rw [← he, Memory.copied_inRange hx] at h
      cases h
  · rw [Memory.read_erase, h]; rfl

theorem Machine.Memory.read_eq_some_iff {m : Memory} (h : m.wf) (a : Nat) (b : Byte) :
    m.read a = some b ↔ (a, b) ∈ m := by
  obtain ⟨hp, -⟩ := h
  induction m with
  | nil => simp [Memory.read]
  | cons x m ih =>
    obtain ⟨k, v⟩ := x
    rw [List.pairwise_cons] at hp
    simp only [Memory.read, List.mem_cons, Prod.mk.injEq]
    split
    · rename_i hk
      subst hk
      constructor
      · intro he; left; exact ⟨rfl, (Option.some.inj he).symm⟩
      · rintro (⟨-, rfl⟩ | hm)
        · rfl
        · exact absurd (hp.1 _ hm) (lt_irrefl _)
    · rename_i hk
      rw [ih hp.2]
      constructor
      · exact .inr
      · rintro (⟨rfl, -⟩ | hm)
        · exact absurd rfl hk
        · exact hm

/-- Inside the stated domain, a move puts each determined source byte at its place. -/
theorem Machine.Memory.read_move_inside {m : Memory} (hm : m.wf) (ram : List Region) {dst src n : Word}
    (h : moveStated ram dst src n = true) {i : Nat} (hi : i < n.toNat) :
    (m.move ram dst src n).read (dst.toNat + i) = m.read (src.toNat + i) := by
  have hd : dst.toNat + n.toNat ≤ 2 ^ 32 := by
    simp only [moveStated, rangeBacked, Bool.and_eq_true, decide_eq_true_eq] at h; exact h.1.1.1
  have hs : src.toNat + n.toNat ≤ 2 ^ 32 := by
    simp only [moveStated, rangeBacked, Bool.and_eq_true, decide_eq_true_eq] at h; exact h.1.2.1
  unfold Memory.move
  rw [if_pos h]
  have herase : (m.erase dst n).read (dst.toNat + i) = none := by
    rw [Memory.read_erase, if_pos]
    simp only [inRange, decide_eq_true_eq]
    have : BitVec.ofNat 32 (dst.toNat + i) - dst = BitVec.ofNat 32 i := by
      apply BitVec.eq_of_toNat_eq; simp; omega
    rw [this]; simp; omega
  have hkey : ∀ l : Memory, (∀ x ∈ l, x.1 < 2 ^ 32) →
      Memory.read ((l.copied dst src n).foldr (fun x acc => Memory.write x.1 x.2 acc) (m.erase dst n)) (dst.toNat + i)
        = l.read (src.toNat + i) := by
    intro l
    induction l with
    | nil => intro _; simpa [Memory.copied, Memory.read] using herase
    | cons x l ih =>
      intro hb
      obtain ⟨k, v⟩ := x
      have ih' := ih fun y hy => hb y (List.mem_cons_of_mem _ hy)
      have hk : k < 2 ^ 32 := hb (k, v) (List.mem_cons_self ..)
      unfold Memory.copied at ih' ⊢
      by_cases hr : inRange src n k = true
      · simp only [List.filterMap_cons, hr, if_true, List.foldr_cons]
        have hk' : (BitVec.ofNat 32 k - src).toNat < n.toNat := by simpa [inRange] using hr
        have hki : src.toNat ≤ k ∧ (BitVec.ofNat 32 k - src).toNat = k - src.toNat := by
          rw [BitVec.toNat_sub] at hk' ⊢
          simp only [BitVec.toNat_ofNat] at hk' ⊢
          omega
        have haddr : (BitVec.ofNat 32 k - src + dst).toNat = dst.toNat + (k - src.toNat) := by
          rw [BitVec.toNat_add, hki.2]; rw [hki.2] at hk'; omega
        by_cases hik : k = src.toNat + i
        · have : (BitVec.ofNat 32 k - src + dst).toNat = dst.toNat + i := by rw [haddr]; omega
          rw [this, Memory.read_write_self]; simp [Memory.read, hik]
        · rw [Memory.read_write_other _ _ (by rw [haddr]; omega), ih']
          simp [Memory.read, hik]
      · simp only [List.filterMap_cons, hr]
        have hik : k ≠ src.toNat + i := by
          rintro rfl
          apply hr
          simp only [inRange, decide_eq_true_eq]
          have : BitVec.ofNat 32 (src.toNat + i) - src = BitVec.ofNat 32 i := by
            apply BitVec.eq_of_toNat_eq; simp; omega
          rw [this]; simp; omega
        simpa [Memory.read, hik] using ih'
  exact hkey m hm.2
end Sys2Proof
end

