-- ==== Sys2Proof/Laws/Operands.lean ====
section
/-! SUPPORT. The RTC halves, the pair and the byte count: what each part reads as once put together; and the addresses that
the configuration gives: `A_RST` is even, an RTC offset is the address under its mask. -/

namespace Sys2Proof.Machine

@[simp] theorem rtcHigh_rtcOf (hi lo : Half) : rtcHigh (rtcOf hi lo) = hi := by
  apply BitVec.eq_of_getLsbD_eq; intro i hi'
  interval_cases i <;> simp [rtcHigh, rtcOf]

@[simp] theorem rtcLow_rtcOf (hi lo : Half) : rtcLow (rtcOf hi lo) = lo := by
  apply BitVec.eq_of_getLsbD_eq; intro i hi'
  interval_cases i <;> simp [rtcLow, rtcOf]

@[simp] theorem rtcOf_halves (v : Word) : rtcOf (rtcHigh v) (rtcLow v) = v := by
  apply BitVec.eq_of_getLsbD_eq; intro i hi'
  by_cases h : i < 16
  · simp [rtcHigh, rtcLow, rtcOf, h, hi']
  · simp [rtcHigh, rtcLow, rtcOf, h, hi', show i - 16 < 16 by omega, show 16 + (i - 16) = i by omega]

@[simp] theorem dataHalf_zextHalf (v : Half) : dataHalf (zextHalf v) = v := by
  apply BitVec.eq_of_getLsbD_eq; intro i hi'
  simp [dataHalf, zextHalf, hi', show i < 32 by omega]

/-- The byte count is LEN with its top bit stripped (42_dma R199). -/
theorem Channel.count_eq (r : Channel) : r.count = r.len &&& 0x7FFFFFFF#32 := by
  apply BitVec.eq_of_getLsbD_eq; intro i hi'
  by_cases h : i = 31
  · subst h; simp [Channel.count]
  · have h31 : i < 31 := by omega
    have hm : (0x7FFFFFFF#32).getLsbD i = true := by
      interval_cases i <;> rfl
    simp [Channel.count, h31, hi', hm]

/-- `A_RST` is even (92_eei_decisions D5). -/
theorem aRst_even (cfg : Config) : cfg.aRst.toNat % 2 = 0 := by
  simp [Config.aRst, BitVec.toNat_shiftLeft, Nat.shiftLeft_eq]

/-- `A_VREG` is the byte after `A_RST`, with no wrap at the top of the space. -/
theorem aVreg_toNat (cfg : Config) : (aVreg cfg).toNat = cfg.aRst.toNat + 1 := by
  have := aRst_even cfg; have := cfg.aRst.isLt
  simp [aVreg]; omega

/-- An RTC offset is the address ANDed with the mask (20_memory R61). -/
theorem rtcOffOfAddr_eq (cfg : Config) (addr : Word) :
    (rtcOffOfAddr cfg addr).setWidth 32 = addr &&& cfg.rtcOffMask.setWidth 32 := by
  apply BitVec.eq_of_getLsbD_eq; intro i hi
  by_cases h : i < 8
  · simp [rtcOffOfAddr, h, hi]
  · simp [rtcOffOfAddr, h, BitVec.getLsbD_of_ge cfg.rtcOffMask i (by omega)]

end Sys2Proof.Machine
end

