-- ==== Sys2Proof/Laws/PerInstr.lean ====
section
/-! SUPPORT. Laws made per instruction. `EncodedWord`: the word that an operation encodes to has Z = 0 and a width code
that is not the reserved one (spec/30_encoding.md R91), so that R95's row 0 never takes it. -/

namespace Sys2Proof.Laws.EncodedWord

/-- The encoded word of an operation (OPW.INVALID apart, whose word is any) respects R91. -/
def Statement (i : Instr) : Prop :=
  ∀ cfg, (∀ w, i ≠ .opwInvalid w) → opwZ (encode cfg i).opw = 0#12 ∧ opwWc (encode cfg i).opw ≠ 3#2

theorem of_opwOf {i : Instr} (h : ∀ cfg, ∃ p r c s, (encode cfg i).opw = opwOf p r c s ∧ c ≠ 3#2) : Statement i := by
  intro cfg _
  obtain ⟨p, r, c, s, he, hc⟩ := h cfg
  rw [he]
  exact ⟨opwZ_opwOf .., by rw [opwWc_opwOf]; exact hc⟩

theorem rtcRdh (w : Width) : Statement (.rtcRdh w) :=
  of_opwOf fun _ => ⟨_, _, _, _, rfl, by cases w <;> decide⟩

theorem rtcRdl (w : Width) : Statement (.rtcRdl w) :=
  of_opwOf fun _ => ⟨_, _, _, _, rfl, by cases w <;> decide⟩

theorem rtcRden (w : Width) : Statement (.rtcRden w) :=
  of_opwOf fun _ => ⟨_, _, _, _, rfl, by cases w <;> decide⟩

theorem rtcWrh (w : Width) (data : Word) : Statement (.rtcWrh w data) :=
  of_opwOf fun _ => ⟨_, _, _, _, rfl, by cases w <;> decide⟩

theorem rtcWrl (w : Width) (data : Word) : Statement (.rtcWrl w data) :=
  of_opwOf fun _ => ⟨_, _, _, _, rfl, by cases w <;> decide⟩

theorem rtcWren (w : Width) (data : Word) : Statement (.rtcWren w data) :=
  of_opwOf fun _ => ⟨_, _, _, _, rfl, by cases w <;> decide⟩

theorem rtcRdinv (w : Width) (off : BitVec 8) : Statement (.rtcRdinv w off) :=
  of_opwOf fun _ => ⟨_, _, _, _, rfl, by cases w <;> decide⟩

theorem rtcWrinv (w : Width) (off : BitVec 8) (data : Word) : Statement (.rtcWrinv w off data) :=
  of_opwOf fun _ => ⟨_, _, _, _, rfl, by cases w <;> decide⟩

theorem regRd8Rst : Statement (.regRd8Rst) :=
  of_opwOf fun _ => ⟨_, _, _, _, rfl, by decide⟩

theorem regWr8Rst (data : Word) : Statement (.regWr8Rst data) :=
  of_opwOf fun _ => ⟨_, _, _, _, rfl, by decide⟩

theorem regRd8Vreg : Statement (.regRd8Vreg) :=
  of_opwOf fun _ => ⟨_, _, _, _, rfl, by decide⟩

theorem regWr8Vreg (data : Word) : Statement (.regWr8Vreg data) :=
  of_opwOf fun _ => ⟨_, _, _, _, rfl, by decide⟩

theorem regRd16Pair : Statement (.regRd16Pair) :=
  of_opwOf fun _ => ⟨_, _, _, _, rfl, by decide⟩

theorem regWr16Pair (data : Word) : Statement (.regWr16Pair data) :=
  of_opwOf fun _ => ⟨_, _, _, _, rfl, by decide⟩

theorem regRdBadw (a : RegAddr) : Statement (.regRdBadw a) :=
  of_opwOf fun _ => ⟨_, _, _, _, rfl, by decide⟩

theorem regWrBadw (a : RegAddr) (data : Word) : Statement (.regWrBadw a data) :=
  of_opwOf fun _ => ⟨_, _, _, _, rfl, by decide⟩

theorem regRdPass (w : Narrow) (a : RegAddr) : Statement (.regRdPass w a) :=
  of_opwOf fun _ => ⟨_, _, _, _, rfl, by cases w <;> decide⟩

theorem regWrPass (w : Narrow) (a : RegAddr) (data : Word) : Statement (.regWrPass w a data) :=
  of_opwOf fun _ => ⟨_, _, _, _, rfl, by cases w <;> decide⟩

theorem dmaRdDst (c : Chan) : Statement (.dmaRdDst c) :=
  of_opwOf fun _ => ⟨_, _, _, _, rfl, by decide⟩

theorem dmaRdSrc (c : Chan) : Statement (.dmaRdSrc c) :=
  of_opwOf fun _ => ⟨_, _, _, _, rfl, by decide⟩

theorem dmaRdLen (c : Chan) : Statement (.dmaRdLen c) :=
  of_opwOf fun _ => ⟨_, _, _, _, rfl, by decide⟩

theorem dmaRdDir (c : Chan) : Statement (.dmaRdDir c) :=
  of_opwOf fun _ => ⟨_, _, _, _, rfl, by decide⟩

theorem dmaRdEn (c : Chan) : Statement (.dmaRdEn c) :=
  of_opwOf fun _ => ⟨_, _, _, _, rfl, by decide⟩

theorem dmaRdSt (c : Chan) : Statement (.dmaRdSt c) :=
  of_opwOf fun _ => ⟨_, _, _, _, rfl, by decide⟩

theorem dmaRdSusp (c : Chan) : Statement (.dmaRdSusp c) :=
  of_opwOf fun _ => ⟨_, _, _, _, rfl, by decide⟩

theorem dmaWrDst (c : Chan) (data : Word) : Statement (.dmaWrDst c data) :=
  of_opwOf fun _ => ⟨_, _, _, _, rfl, by decide⟩

theorem dmaWrSrc (c : Chan) (data : Word) : Statement (.dmaWrSrc c data) :=
  of_opwOf fun _ => ⟨_, _, _, _, rfl, by decide⟩

theorem dmaWrLen (c : Chan) (data : Word) : Statement (.dmaWrLen c data) :=
  of_opwOf fun _ => ⟨_, _, _, _, rfl, by decide⟩

theorem dmaWrDir (c : Chan) (data : Word) : Statement (.dmaWrDir c data) :=
  of_opwOf fun _ => ⟨_, _, _, _, rfl, by decide⟩

theorem dmaWrEn (c : Chan) (data : Word) : Statement (.dmaWrEn c data) :=
  of_opwOf fun _ => ⟨_, _, _, _, rfl, by decide⟩

theorem dmaWrSusp (c : Chan) (data : Word) : Statement (.dmaWrSusp c data) :=
  of_opwOf fun _ => ⟨_, _, _, _, rfl, by decide⟩

theorem dma0WrSt (data : Word) : Statement (.dma0WrSt data) :=
  of_opwOf fun _ => ⟨_, _, _, _, rfl, by decide⟩

theorem dma1WrSt (data : Word) : Statement (.dma1WrSt data) :=
  of_opwOf fun _ => ⟨_, _, _, _, rfl, by decide⟩

theorem dma2WrSt (data : Word) : Statement (.dma2WrSt data) :=
  of_opwOf fun _ => ⟨_, _, _, _, rfl, by decide⟩

theorem dma3WrSt (data : Word) : Statement (.dma3WrSt data) :=
  of_opwOf fun _ => ⟨_, _, _, _, rfl, by decide⟩

theorem dmaRdRsvd (c : Chan) (low : BitVec 5) : Statement (.dmaRdRsvd c low) :=
  of_opwOf fun _ => ⟨_, _, _, _, rfl, by decide⟩

theorem dmaWrRsvd (c : Chan) (low : BitVec 5) (data : Word) : Statement (.dmaWrRsvd c low data) :=
  of_opwOf fun _ => ⟨_, _, _, _, rfl, by decide⟩

theorem dmaRdBadw (w : Narrow) (c : Chan) (low : BitVec 5) : Statement (.dmaRdBadw w c low) :=
  of_opwOf fun _ => ⟨_, _, _, _, rfl, by cases w <;> decide⟩

theorem dmaWrBadw (w : Narrow) (c : Chan) (low : BitVec 5) (data : Word) : Statement (.dmaWrBadw w c low data) :=
  of_opwOf fun _ => ⟨_, _, _, _, rfl, by cases w <;> decide⟩

theorem reset (seed : Word) : Statement (.reset seed) :=
  of_opwOf fun _ => ⟨_, _, _, _, rfl, by decide⟩

theorem rtcTick : Statement (.rtcTick) :=
  of_opwOf fun _ => ⟨_, _, _, _, rfl, by decide⟩

theorem dma0Done : Statement (.dma0Done) :=
  of_opwOf fun _ => ⟨_, _, _, _, rfl, by decide⟩

theorem opwInvalid (opw : Word) : Statement (.opwInvalid opw) := fun _ h => absurd rfl (h opw)

end Sys2Proof.Laws.EncodedWord
end

