-- ==== Sys2Proof/Laws/Run.lean ====
section
/-! SUPPORT. A step and its refusals; runs of several operations, one operation at a time; and the words that the lines of a script build
(spec/30_encoding.md R97) as the fields of R91. -/

namespace Sys2Proof.Machine

theorem runAll_nil (s : State) : runAll [] s = .next s := rfl

/-- The first operation of a run. -/
theorem runAll_cons {i : Instr} {s t : State} (h : exec i s = .next t) (is : List Instr) :
    runAll (i :: is) s = runAll is t := by
  simp only [runAll, h]

/-- The first step of a run of the machine. -/
theorem run_succ {o : Op} {rest : List Op} {s t : State} (hp : s.pending = o :: rest)
    (h : exec (decode s.cfg o) { s with pending := rest } = .next t) (k : Nat) :
    Host.Core.run Sys2Proof.core (k + 1) s = Host.Core.run Sys2Proof.core k t := by
  have hs : Sys2Proof.core.step s = .next t := by
    have : step s = .next t := by simpa only [step, hp] using h
    exact this
  simp only [Host.Core.run, hs]

theorem step_cons {o : Op} {rest : List Op} {s : State} (hp : s.pending = o :: rest) :
    step s = exec (decode s.cfg o) { s with pending := rest } := by simp only [step, hp]

theorem step_nil {s : State} (hp : s.pending = []) : step s = .refused s.idleRefusal := by simp only [step, hp]

/-- An operation is refused only as an invalid word, so a step's other refusals come from an empty queue. -/
theorem exec_refused {i : Instr} {s : State} {r : Refusal} (h : exec i s = .refused r) :
    ∃ w, i = .opwInvalid w ∧ r = .invalidOperationWord w := by
  cases i with
  | opwInvalid w => cases h; exact ⟨w, rfl, rfl⟩
  | _ => cases h

theorem State.runOver_iff (s : State) : s.runOver = true ↔ s.pending = [] ∧ s.env.armDma0 = [] := by
  simp [State.runOver]

theorem State.idleRefusal_eq (s : State) :
    s.idleRefusal = if s.env.armDma0 = [] then .noOperationOffered else .completionOutstanding := by
  simp [State.idleRefusal]

theorem Line.op_rdRtc (w : Width) (off : BitVec 8) :
    Line.op (.rdRtc w off) = ⟨opwOf 0#2 0#1 w.code (rtcSel off), 0#32⟩ := by
  have e : off.setWidth 32 = (rtcSel off).setWidth 32 := by
    apply BitVec.eq_of_toNat_eq; have := off.isLt; simp [rtcSel]
  cases w <;> simp [Line.op, widthBits, opwOf, Width.code, e]

theorem Line.op_wrRtc (w : Width) (off : BitVec 8) (data : Word) :
    Line.op (.wrRtc w off data) = ⟨opwOf 0#2 1#1 w.code (rtcSel off), data⟩ := by
  have e : off.setWidth 32 = (rtcSel off).setWidth 32 := by
    apply BitVec.eq_of_toNat_eq; have := off.isLt; simp [rtcSel]
  cases w <;> simp [Line.op, widthBits, opwOf, Width.code, e]

theorem Line.op_rdReg (w : Width) (addr : Word) :
    Line.op (.rdReg w addr) = ⟨opwOf 1#2 0#1 w.code (regAddrOfAddr addr), 0#32⟩ := by
  cases w <;> simp [Line.op, widthBits, opwOf, Width.code]

theorem Line.op_wrReg (w : Width) (addr data : Word) :
    Line.op (.wrReg w addr data) = ⟨opwOf 1#2 1#1 w.code (regAddrOfAddr addr), data⟩ := by
  cases w <;> simp [Line.op, widthBits, opwOf, Width.code]

/-- SEL[4:0] of a register's offset (20_memory R63). -/
def DmaReg.low (r : DmaReg) : BitVec 5 := BitVec.ofNat 5 (4 * r.idx)

theorem Line.op_rdDma (c : Chan) (r : DmaReg) :
    Line.op (.rdDma c r) = ⟨opwOf 2#2 0#1 2#2 (dmaSel c r.low), 0#32⟩ := by
  cases c <;> cases r <;> decide

theorem Line.op_wrDma (c : Chan) (r : DmaReg) (data : Word) :
    Line.op (.wrDma c r data) = ⟨opwOf 2#2 1#1 2#2 (dmaSel c r.low), data⟩ := by
  have : (0xB0000000#32 ||| dmaOffset c r) = opwOf 2#2 1#1 2#2 (dmaSel c r.low) := by
    cases c <;> cases r <;> decide
  simp only [Line.op, this]

end Sys2Proof.Machine
end

