-- ==== Sys2Proof/Laws/State.lean ====
section
/-! SUPPORT. One lemma per field per update, so that no later proof unfolds a record update. -/

namespace Sys2Proof.Machine

section channels
variable (b : Block) (s : State) (c : Chan) (r : Channel)

@[simp] theorem Block.setChan_rtc : (b.setChan c r).rtc = b.rtc := by cases c <;> rfl
@[simp] theorem Block.setChan_rtcEn : (b.setChan c r).rtcEn = b.rtcEn := by cases c <;> rfl
@[simp] theorem Block.setChan_armrst : (b.setChan c r).armrst = b.armrst := by cases c <;> rfl
@[simp] theorem Block.setChan_vreg : (b.setChan c r).vreg = b.vreg := by cases c <;> rfl
@[simp] theorem Block.chan_setChan_self : (b.setChan c r).chan c = r := by cases c <;> rfl

@[simp] theorem Block.setChan_setChan (r' : Channel) : (b.setChan c r).setChan c r' = b.setChan c r' := by
  cases c <;> rfl

theorem Block.chan_setChan_other {c c' : Chan} (h : c' ≠ c) : (b.setChan c r).chan c' = b.chan c' := by
  cases c <;> cases c' <;> first | rfl | exact absurd rfl h

theorem Block.chan_setChan (c' : Chan) : (b.setChan c r).chan c' = if c' = c then r else b.chan c' := by
  split
  · rename_i h; subst h; exact b.chan_setChan_self ..
  · rename_i h; exact b.chan_setChan_other r h

@[simp] theorem State.setChan_blk : (s.setChan c r).blk = s.blk.setChan c r := rfl
@[simp] theorem State.setChan_env : (s.setChan c r).env = s.env := rfl
@[simp] theorem State.setChan_cfg : (s.setChan c r).cfg = s.cfg := rfl
@[simp] theorem State.setChan_pending : (s.setChan c r).pending = s.pending := rfl
@[simp] theorem State.setChan_trace : (s.setChan c r).trace = s.trace := rfl
@[simp] theorem State.setChan_rv : (s.setChan c r).rv = s.rv := rfl
@[simp] theorem State.chan_setChan_self : (s.setChan c r).chan c = r := s.blk.chan_setChan_self ..

theorem State.chan_setChan_other {c c' : Chan} (h : c' ≠ c) : (s.setChan c r).chan c' = s.chan c' :=
  s.blk.chan_setChan_other r h

theorem State.chan_setChan (c' : Chan) : (s.setChan c r).chan c' = if c' = c then r else s.chan c' :=
  s.blk.chan_setChan ..

/-- A state whose block is another's with channel `c` replaced: channel `c` is the new one, the others are the old. -/
theorem State.chan_of_blk {s t : State} {c : Chan} {r : Channel} (h : t.blk = s.blk.setChan c r) :
    t.chan c = r ∧ ∀ c', c' ≠ c → t.chan c' = s.chan c' := by
  unfold State.chan
  rw [h]
  exact ⟨Block.chan_setChan_self .., fun c' hc => Block.chan_setChan_other _ _ hc⟩

end channels

section emit
variable (s : State) (e : Event) (v : Word) (cfg : Config) (env : Env)

@[simp] theorem State.emit_blk : (s.emit e).blk = s.blk := rfl
@[simp] theorem State.emit_env : (s.emit e).env = s.env.react s.cfg e := rfl
@[simp] theorem State.emit_cfg : (s.emit e).cfg = s.cfg := rfl
@[simp] theorem State.emit_pending : (s.emit e).pending = s.pending := rfl
@[simp] theorem State.emit_trace : (s.emit e).trace = s.trace ++ [e] := rfl
@[simp] theorem State.emit_rv : (s.emit e).rv = s.rv := rfl
@[simp] theorem State.emit_chan (c : Chan) : (s.emit e).chan c = s.chan c := rfl

@[simp] theorem State.returning_blk : (s.returning v).blk = s.blk := rfl
@[simp] theorem State.returning_env : (s.returning v).env = s.env := rfl
@[simp] theorem State.returning_cfg : (s.returning v).cfg = s.cfg := rfl
@[simp] theorem State.returning_pending : (s.returning v).pending = s.pending := rfl
@[simp] theorem State.returning_trace : (s.returning v).trace = s.trace := rfl
@[simp] theorem State.returning_rv : (s.returning v).rv = some v := rfl
@[simp] theorem State.returning_chan (c : Chan) : (s.returning v).chan c = s.chan c := rfl

@[simp] theorem State.done_blk : s.done.blk = s.blk := rfl
@[simp] theorem State.done_env : s.done.env = s.env := rfl
@[simp] theorem State.done_cfg : s.done.cfg = s.cfg := rfl
@[simp] theorem State.done_pending : s.done.pending = s.pending := rfl
@[simp] theorem State.done_trace : s.done.trace = s.trace := rfl
@[simp] theorem State.done_rv : s.done.rv = none := rfl
@[simp] theorem State.done_chan (c : Chan) : s.done.chan c = s.chan c := rfl

@[simp] theorem State.deliverDma0_blk : s.deliverDma0.blk = s.blk := rfl
@[simp] theorem State.deliverDma0_env : s.deliverDma0.env = { s.env with armDma0 := s.env.armDma0.tail } := rfl
@[simp] theorem State.deliverDma0_cfg : s.deliverDma0.cfg = s.cfg := rfl
@[simp] theorem State.deliverDma0_pending : s.deliverDma0.pending = s.pending := rfl
@[simp] theorem State.deliverDma0_trace : s.deliverDma0.trace = s.trace := rfl
@[simp] theorem State.deliverDma0_rv : s.deliverDma0.rv = s.rv := rfl
@[simp] theorem State.deliverDma0_chan (c : Chan) : s.deliverDma0.chan c = s.chan c := rfl

@[simp] theorem State.deliverRtc_blk : s.deliverRtc.blk = s.blk := rfl
@[simp] theorem State.deliverRtc_env : s.deliverRtc.env = { s.env with armRtc := s.env.armRtc.tail } := rfl
@[simp] theorem State.deliverRtc_cfg : s.deliverRtc.cfg = s.cfg := rfl
@[simp] theorem State.deliverRtc_pending : s.deliverRtc.pending = s.pending := rfl
@[simp] theorem State.deliverRtc_trace : s.deliverRtc.trace = s.trace := rfl
@[simp] theorem State.deliverRtc_rv : s.deliverRtc.rv = s.rv := rfl
@[simp] theorem State.deliverRtc_chan (c : Chan) : s.deliverRtc.chan c = s.chan c := rfl

@[simp] theorem Env.react_move (d src n : Word) :
    env.react cfg (.move d src n) = { env with mem := env.mem.move cfg.ram d src n } := rfl
@[simp] theorem Env.react_raiseInt (id : IntId) : env.react cfg (.raiseInt id) = env := rfl
@[simp] theorem Env.react_copSetEnabled (b : Bool) :
    env.react cfg (.copSetEnabled b) = { env with copEnabled := some b } := rfl
@[simp] theorem Env.react_schedRtc (delta : Nat) :
    env.react cfg (.schedRequest .rtc delta) = { env with armRtc := armed cfg env.armRtc delta } := rfl
@[simp] theorem Env.react_schedDma0 (delta : Nat) :
    env.react cfg (.schedRequest .dma0 delta) = { env with armDma0 := armed cfg env.armDma0 delta } := rfl
@[simp] theorem Env.react_extWrite (a : RegAddr) (x : RegVal) : env.react cfg (.extWrite a x) = env := rfl
@[simp] theorem Env.react_extRead (a : RegAddr) (x : RegVal) : env.react cfg (.extRead a x) = env := rfl
@[simp] theorem Env.react_diag (d : Diag) : env.react cfg (.diag d) = env := rfl
@[simp] theorem Env.react_log (l : LogEntry) : env.react cfg (.log l) = env := rfl

/-- A request leaves something armed, whichever way the scheduler re-arms. -/
theorem armed_ne_nil (arm : List Nat) (delta : Nat) : armed cfg arm delta ≠ [] := by
  unfold armed; split <;> simp

end emit

/-- `State.reset`'s block is what RESET leaves, with the seed `Config.bootSeed`. -/
theorem reset_blk : State.reset.blk = resetBlock Config.bootSeed := rfl

end Sys2Proof.Machine
end

