-- ==== Sys2Proof/Laws/Transfer.lean ====
section
/-! SUPPORT. Everything the shared transfer operations can do: `complete`, `defer`, `gpTrigger`, `primaryTrigger`, and DMA0.DONE. Later
proofs cite these instead of unfolding the operations. -/

namespace Sys2Proof.Machine
variable (s : State) (c : Chan)

theorem State.complete_chan_self : (s.complete c).chan c = (s.chan c).completed s.cfg c := by
  simp [State.complete]

theorem State.complete_chan_other {c c' : Chan} (h : c' ≠ c) : (s.complete c).chan c' = s.chan c' := by
  simp [State.complete, State.chan_setChan_other s _ h]

@[simp] theorem State.complete_blk : (s.complete c).blk = s.blk.setChan c ((s.chan c).completed s.cfg c) := rfl
@[simp] theorem State.complete_env : (s.complete c).env = s.env := rfl
@[simp] theorem State.complete_cfg : (s.complete c).cfg = s.cfg := rfl
@[simp] theorem State.complete_pending : (s.complete c).pending = s.pending := rfl
@[simp] theorem State.complete_trace : (s.complete c).trace = s.trace ++ [.raiseInt ⟨c⟩] := rfl

@[simp] theorem State.emitMove_blk : (s.emitMove c).blk = s.blk := rfl
@[simp] theorem State.emitMove_chan (c' : Chan) : (s.emitMove c).chan c' = s.chan c' := rfl
@[simp] theorem State.emitMove_env : (s.emitMove c).env =
    { s.env with mem := s.env.mem.move s.cfg.ram (s.chan c).moveDst (s.chan c).moveSrc (s.chan c).count } := rfl
@[simp] theorem State.emitMove_cfg : (s.emitMove c).cfg = s.cfg := rfl
@[simp] theorem State.emitMove_pending : (s.emitMove c).pending = s.pending := rfl
@[simp] theorem State.emitMove_trace : (s.emitMove c).trace =
    s.trace ++ [.move (s.chan c).moveDst (s.chan c).moveSrc (s.chan c).count] := rfl

@[simp] theorem State.emitXferLog_blk : (s.emitXferLog c).blk = s.blk := rfl
@[simp] theorem State.emitXferLog_chan (c' : Chan) : (s.emitXferLog c).chan c' = s.chan c' := rfl
@[simp] theorem State.emitXferLog_env : (s.emitXferLog c).env = s.env := rfl
@[simp] theorem State.emitXferLog_cfg : (s.emitXferLog c).cfg = s.cfg := rfl
@[simp] theorem State.emitXferLog_pending : (s.emitXferLog c).pending = s.pending := rfl
@[simp] theorem State.emitXferLog_trace : (s.emitXferLog c).trace =
    s.trace ++ [.log (.dmaXfer c (s.chan c).swapped (s.chan c).moveDst (s.chan c).moveSrc (s.chan c).count)] := rfl

@[simp] theorem State.emitCopEnable_blk : s.emitCopEnable.blk = s.blk := rfl
@[simp] theorem State.emitCopEnable_env :
    s.emitCopEnable.env = { s.env with copEnabled := some (copEnabledBy s.blk.armrst) } := rfl
@[simp] theorem State.emitCopEnable_cfg : s.emitCopEnable.cfg = s.cfg := rfl
@[simp] theorem State.emitCopEnable_pending : s.emitCopEnable.pending = s.pending := rfl
@[simp] theorem State.emitCopEnable_trace :
    s.emitCopEnable.trace = s.trace ++ [.copSetEnabled (copEnabledBy s.blk.armrst)] := rfl

/-- The registers of channel 0 after a deferral. -/
theorem State.defer_chan0 : s.defer.chan .ch0 =
    { s.chan .ch0 with st := 1#32, susp := clearIndicator s.cfg (s.chan .ch0).susp } := by
  simp [State.defer]

theorem State.defer_chan_other {c : Chan} (h : c ≠ .ch0) : s.defer.chan c = s.chan c := by
  simp [State.defer, State.chan_setChan_other s _ h]

@[simp] theorem State.defer_blk : s.defer.blk =
    s.blk.setChan .ch0 { s.chan .ch0 with st := 1#32, susp := clearIndicator s.cfg (s.chan .ch0).susp } := rfl
@[simp] theorem State.defer_env : s.defer.env =
    { s.env with armDma0 := armed s.cfg s.env.armDma0 (cycles s.cfg (s.chan .ch0).count) } := rfl
@[simp] theorem State.defer_cfg : s.defer.cfg = s.cfg := rfl
@[simp] theorem State.defer_pending : s.defer.pending = s.pending := rfl
@[simp] theorem State.defer_trace : s.defer.trace =
    s.trace ++ [.schedRequest .dma0 (cycles s.cfg (s.chan .ch0).count)] := rfl

/-- A general-purpose trigger does nothing, or logs, moves and completes. -/
theorem State.gpTrigger_cases (data : Word) :
    (s.triggers c data = false ∧ s.gpTrigger c data = s) ∨
    (s.triggers c data = true ∧ s.gpTrigger c data = ((s.emitXferLog c).emitMove c).complete c) := by
  unfold State.gpTrigger
  cases s.triggers c data <;> simp

/-- A primary trigger does nothing, or moves and completes inline, or moves and defers. -/
theorem State.primaryTrigger_cases (data : Word) :
    (s.triggers .ch0 data = false ∧ s.primaryTrigger data = s) ∨
    (s.triggers .ch0 data = true ∧ inlineTransfer s.cfg (s.chan .ch0).count = true ∧
      s.primaryTrigger data = (s.emitMove .ch0).complete .ch0) ∨
    (s.triggers .ch0 data = true ∧ inlineTransfer s.cfg (s.chan .ch0).count = false ∧
      s.primaryTrigger data = (s.emitMove .ch0).defer) := by
  unfold State.primaryTrigger
  cases s.triggers .ch0 data <;> cases inlineTransfer s.cfg (s.chan .ch0).count <;> simp

/-- A triggered general-purpose transfer, as one record (42_dma R203). -/
theorem State.gpTrigger_eq (data : Word) (h : s.triggers c data = true) : s.gpTrigger c data =
    { s with
      blk := s.blk.setChan c ((s.chan c).completed s.cfg c)
      env := { s.env with mem := s.env.mem.move s.cfg.ram (s.chan c).moveDst (s.chan c).moveSrc (s.chan c).count }
      trace := s.trace ++ [.log (.dmaXfer c (s.chan c).swapped (s.chan c).moveDst (s.chan c).moveSrc (s.chan c).count),
        .move (s.chan c).moveDst (s.chan c).moveSrc (s.chan c).count, .raiseInt ⟨c⟩] } := by
  rw [State.gpTrigger, if_pos h]
  simp [State.complete, State.emitMove, State.emitXferLog, State.emit, State.setChan, State.chan,
    Env.react]

/-- A triggered primary transfer that completes inline, as one record (42_dma R202). -/
theorem State.primaryTrigger_inline (data : Word) (h : s.triggers .ch0 data = true)
    (hi : inlineTransfer s.cfg (s.chan .ch0).count = true) : s.primaryTrigger data =
    { s with
      blk := s.blk.setChan .ch0 ((s.chan .ch0).completed s.cfg .ch0)
      env := { s.env with
        mem := s.env.mem.move s.cfg.ram (s.chan .ch0).moveDst (s.chan .ch0).moveSrc (s.chan .ch0).count }
      trace := s.trace ++ [.move (s.chan .ch0).moveDst (s.chan .ch0).moveSrc (s.chan .ch0).count,
        .raiseInt ⟨.ch0⟩] } := by
  rw [State.primaryTrigger, if_pos h, if_pos hi]
  simp [State.complete, State.emitMove, State.emit, State.setChan, State.chan, Env.react]

/-- A triggered primary transfer that defers its completion, as one record (42_dma R202). -/
theorem State.primaryTrigger_defer (data : Word) (h : s.triggers .ch0 data = true)
    (hi : inlineTransfer s.cfg (s.chan .ch0).count = false) : s.primaryTrigger data =
    { s with
      blk := s.blk.setChan .ch0
        { s.chan .ch0 with st := 1#32, susp := clearIndicator s.cfg (s.chan .ch0).susp }
      env := { s.env with
        mem := s.env.mem.move s.cfg.ram (s.chan .ch0).moveDst (s.chan .ch0).moveSrc (s.chan .ch0).count
        armDma0 := armed s.cfg s.env.armDma0 (cycles s.cfg (s.chan .ch0).count) }
      trace := s.trace ++ [.move (s.chan .ch0).moveDst (s.chan .ch0).moveSrc (s.chan .ch0).count,
        .schedRequest .dma0 (cycles s.cfg (s.chan .ch0).count)] } := by
  rw [State.primaryTrigger, if_pos h, if_neg (by simp [hi])]
  simp [State.defer, State.emitMove, State.emit, State.setChan, State.chan, Env.react]

/-- A trigger write that does not start a transfer changes nothing (42_dma R198). -/
theorem State.gpTrigger_off (data : Word) (h : s.triggers c data = false) : s.gpTrigger c data = s := by
  simp [State.gpTrigger, h]

theorem State.primaryTrigger_off (data : Word) (h : s.triggers .ch0 data = false) : s.primaryTrigger data = s := by
  simp [State.primaryTrigger, h]

/-- A deferred completion on a busy channel, as one record (42_dma R207). -/
theorem execDma0Done_busy (h : (s.chan .ch0).busy = true) : execDma0Done s = .next
    { s with
      blk := s.blk.setChan .ch0 ((s.chan .ch0).completed s.cfg .ch0)
      env := { s.env with armDma0 := s.env.armDma0.tail }
      trace := s.trace ++ [.raiseInt ⟨.ch0⟩]
      rv := none } := by
  rw [execDma0Done, if_pos h]; rfl

/-- A deferred completion on an idle channel changes only the scheduler's queue (42_dma R207). -/
theorem execDma0Done_idle (h : (s.chan .ch0).busy = false) : execDma0Done s = .next
    { s with env := { s.env with armDma0 := s.env.armDma0.tail }, rv := none } := by
  rw [execDma0Done, if_neg (by simp [h])]; rfl

end Sys2Proof.Machine
end

