-- ==== Sys2Proof/Tests/Slice0.lean ====
section
/-! SUPPORT. The model's own tests. Expected results are the spec's: the scripts of spec/95_test_vectors.md (W1 to W8,
V1 to V10, P4) and the examples that stand in the rules. Each effect test is one step, from the operation word. -/

namespace Sys2Proof.Tests

open Sys2Proof Sys2Proof.Machine

/-! ### Small states -/

/-- The state after `evt reset, seed`. -/
def start (seed : Word) : State := { State.reset with blk := resetBlock seed }

/-- `start` with the RTC write window open. -/
def open_ (seed : Word) : State :=
  { start seed with blk := { resetBlock seed with rtcEn := true } }

/-- `start 0` with the pair written. -/
def pair (vreg armrst : Byte) : State :=
  { start 0 with blk := { resetBlock 0 with vreg := vreg, armrst := armrst } }

/-- A channel programmed for a transfer. -/
def xfer (src dst len dir en : Word) : Channel := ⟨dst, src, len, dir, en, 0, 0⟩

/-- `start 0` with the registers of one channel. -/
def with_ (c : Chan) (r : Channel) : State := (start 0).setChan c r

/-- Channel 0 with a deferred transfer outstanding (W8 after line 6). -/
def busy : State :=
  { with_ .ch0 { xfer 0x0C001000 0x00800000 0x2000 0 1 with st := 1 } with
    env := { (start 0).env with armDma0 := [32768] } }

/-- One step on an operation word and a data operand. -/
def after (w d : Nat) (s : State) : Option State :=
  match step (s.withFetchWord 64 (w + d * 2 ^ 32)) with
  | .next t => some t
  | .fault _ => none
  | .refused _ => none

/-- The read result and the events of a step from `start` or a state with an empty trace. -/
def seen (w d : Nat) (s : State) : Option (Option Word × List Event) := (after w d s).map fun t => (t.rv, t.trace)

/-- A read: its result, no event, and no register changed. -/
def reads (w : Nat) (s : State) (v : Word) : Prop :=
  seen w 0 s = some (some v, []) ∧ (after w 0 s).map (·.blk) = some s.blk

/-- An invalid access: its result, its diagnostic, and no register changed. -/
def diagnosed (w d : Nat) (s : State) (v : Option Word) (e : Diag) : Prop :=
  seen w d s = some (v, [.diag e]) ∧ (after w d s).map (·.blk) = some s.blk

/-- The registers of channel `c` and the events after a step. -/
def channelAfter (w d : Nat) (c : Chan) (s : State) : Option (Channel × List Event) :=
  (after w d s).map fun t => (t.chan c, t.trace)

/-! ### WellFormed refuses an ill-formed term of each check -/

theorem test_wf_rtcRdinv : (Instr.rtcRdinv .b4 4).wf defaultConfig = false := by decide
theorem test_wf_rtcWrinv : (Instr.rtcWrinv .b1 8 0).wf defaultConfig = false := by decide
theorem test_wf_regRdPass : (Instr.regRdPass .one 0x2C01).wf defaultConfig = false := by decide
theorem test_wf_regWrPass : (Instr.regWrPass .two 0x2C00 0).wf defaultConfig = false := by decide
theorem test_wf_dmaRdRsvd : (Instr.dmaRdRsvd .ch1 0x18).wf defaultConfig = false := by decide
theorem test_wf_dmaWrRsvd : (Instr.dmaWrRsvd .ch3 0x1C 0).wf defaultConfig = false := by decide
theorem test_wf_opwInvalid : (Instr.opwInvalid 0xC0000002).wf defaultConfig = false := by decide

/-! ### Decoding: the words of V10, and one of every operation that V10 leaves out, from R91 and R92 -/

theorem test_decode_rtc :
    decodeTableWord 32 0x10000000 = some (.rtcRdh .b4) ∧ decodeTableWord 32 0x00000000 = some (.rtcRdh .b1) ∧
    decodeTableWord 32 0x08000004 = some (.rtcRdl .b2) ∧ decodeTableWord 32 0x10000008 = some (.rtcRden .b4) ∧
    decodeTableWord 32 0x20000000 = some (.rtcWrh .b1 0) ∧ decodeTableWord 32 0x30000004 = some (.rtcWrl .b4 0) ∧
    decodeTableWord 32 0x30000008 = some (.rtcWren .b4 0) ∧
    decodeTableWord 32 0x10000001 = some (.rtcRdinv .b4 1) ∧
    decodeTableWord 32 0x300000FC = some (.rtcWrinv .b4 0xFC 0) := by decide

theorem test_decode_reg :
    decodeTableWord 32 0x40002C00 = some .regRd8Rst ∧ decodeTableWord 32 0x60002C00 = some (.regWr8Rst 0) ∧
    decodeTableWord 32 0x40002C01 = some .regRd8Vreg ∧ decodeTableWord 32 0x60002C01 = some (.regWr8Vreg 0) ∧
    decodeTableWord 32 0x48002C00 = some .regRd16Pair ∧ decodeTableWord 32 0x68002C00 = some (.regWr16Pair 0) ∧
    decodeTableWord 32 0x50002C00 = some (.regRdBadw 0x2C00) ∧
    decodeTableWord 32 0x70007FFF = some (.regWrBadw 0x7FFF 0) ∧
    decodeTableWord 32 0x48002C01 = some (.regRdPass .two 0x2C01) ∧
    decodeTableWord 32 0x40000000 = some (.regRdPass .one 0) ∧
    decodeTableWord 32 0x68007FFE = some (.regWrPass .two 0x7FFE 0) := by decide

theorem test_decode_dmaRead :
    decodeTableWord 32 0x90000000 = some (.dmaRdDst .ch0) ∧ decodeTableWord 32 0x90000064 = some (.dmaRdSrc .ch3) ∧
    decodeTableWord 32 0x90000048 = some (.dmaRdLen .ch2) ∧ decodeTableWord 32 0x9000006C = some (.dmaRdDir .ch3) ∧
    decodeTableWord 32 0x90000034 = some (.dmaRdEn .ch1) ∧ decodeTableWord 32 0x90000038 = some (.dmaRdSt .ch1) ∧
    decodeTableWord 32 0x9000001C = some (.dmaRdSusp .ch0) ∧
    decodeTableWord 32 0x90000010 = some (.dmaRdRsvd .ch0 0x10) ∧
    decodeTableWord 32 0x80000018 = some (.dmaRdBadw .one .ch0 0x18) := by decide

theorem test_decode_dmaWrite :
    decodeTableWord 32 0xB0000020 = some (.dmaWrDst .ch1 0) ∧ decodeTableWord 32 0xB0000044 = some (.dmaWrSrc .ch2 0) ∧
    decodeTableWord 32 0xB0000048 = some (.dmaWrLen .ch2 0) ∧ decodeTableWord 32 0xB000006C = some (.dmaWrDir .ch3 0) ∧
    decodeTableWord 32 0xB0000014 = some (.dmaWrEn .ch0 0) ∧ decodeTableWord 32 0xB000003C = some (.dmaWrSusp .ch1 0) ∧
    decodeTableWord 32 0xB0000031 = some (.dmaWrRsvd .ch1 0x11 0) ∧
    decodeTableWord 32 0xA8000058 = some (.dmaWrBadw .two .ch2 0x18 0) := by decide

theorem test_decode_triggers :
    decodeTableWord 32 0xB0000018 = some (.dma0WrSt 0) ∧ decodeTableWord 32 0xB0000038 = some (.dma1WrSt 0) ∧
    decodeTableWord 32 0xB0000058 = some (.dma2WrSt 0) ∧ decodeTableWord 64 0x1B0000078 = some (.dma3WrSt 1) := by decide

theorem test_decode_events :
    decodeTableWord 64 0x8D3F2A10C0000000 = some (.reset 0x8D3F2A10) ∧
    decodeTableWord 32 0xC0000001 = some .rtcTick ∧ decodeTableWord 32 0xC0000002 = some .dma0Done := by decide

theorem test_decode_invalid :
    decodeTableWord 32 0x10000100 = some (.opwInvalid 0x10000100) ∧
    decodeTableWord 32 0x58002C00 = some (.opwInvalid 0x58002C00) ∧
    decodeTableWord 32 0x44000000 = some (.opwInvalid 0x44000000) ∧
    decodeTableWord 32 0x90000080 = some (.opwInvalid 0x90000080) ∧
    decodeTableWord 32 0xC0000003 = some (.opwInvalid 0xC0000003) ∧
    decodeTableWord 32 0xE0000000 = some (.opwInvalid 0xE0000000) ∧
    decodeTableWord 32 0xC8000001 = some (.opwInvalid 0xC8000001) ∧
    decodeTableWord 32 0xFFFFFFFF = some (.opwInvalid 0xFFFFFFFF) := by decide

/-- V5 lines 1 to 4: the front end drops the address bits above bit 14. -/
theorem test_script_masks_the_address :
    Line.op (.rdReg .b1 0xAC00) = ⟨0x40002C00, 0⟩ ∧ Line.op (.wrReg .b1 0xFFFFAC00 0) = ⟨0x60002C00, 0⟩ ∧
    Line.op (.rdReg .b2 0x12C00) = ⟨0x48002C00, 0⟩ ∧ Line.op (.rdDma .ch2 .reserved) = ⟨0x90000050, 0⟩ ∧
    Line.op (.wrRtc .b1 0 0xFFFF1234) = ⟨0x20000000, 0xFFFF1234⟩ := by decide

/-- The map of 20_memory R70, one address of each port: V5 line 2, and the words of V10 and V6. -/
theorem test_bus_map : busWord defaultConfig 0 .b1 0x00702C00 = some 0x40002C00#32 ∧
    busWord defaultConfig 1 .b4 0x00710008 = some 0x30000008#32 ∧
    busWord defaultConfig 1 .b4 0x005F7878 = some 0xB0000078#32 ∧
    busWord defaultConfig 0 .b1 0x005F7818 = some 0x80000018#32 ∧
    busWord defaultConfig 0 .b4 0x0C000000 = none := by decide

/-! ### RTC: V1, V2, V3 -/

theorem test_rtcRdh : reads 0x10000000 (start 0x5F3A9C21) 0x5F3A := by unfold reads; decide
theorem test_rtcRdh_narrow : reads 0x00000000 (start 0x5F3A9C21) 0x5F3A := by unfold reads; decide
theorem test_rtcRdl : reads 0x10000004 (start 0x5F3A9C21) 0x9C21 := by unfold reads; decide
theorem test_rtcRden_armed : reads 0x10000008 (open_ 0x5F3A9C21) 0 := by unfold reads; decide

theorem test_rtcRdinv : diagnosed 0x10000002 0 (start 0x5F3A9C21) (some 0) (.rtcInvalidRead 2) := by
  unfold diagnosed; decide

theorem test_rtcWrinv : diagnosed 0x30000010 5 (open_ 7) none (.rtcInvalidWrite 0x10 5) := by unfold diagnosed; decide

/-- V2 line 12: a 1-byte write replaces the whole upper half and closes the window. -/
theorem test_rtcWrh_armed : (after 0x20000000 0xFFFF1234 (open_ 0x00010002)).map (fun t => (t.blk.rtc, t.blk.rtcEn))
    = some (0x12340002, false) := by decide

theorem test_rtcWrh_unarmed : (after 0x30000000 0xABCD (start 0x5F3A9C21)).map (fun t => (t.blk, t.trace))
    = some (resetBlock 0x5F3A9C21, []) := by decide

theorem test_rtcWrl_armed : (after 0x30000004 0x0001 (open_ 0x00019C21)).map (fun t => (t.blk.rtc, t.blk.rtcEn))
    = some (0x00010001, true) := by decide

theorem test_rtcWrl_unarmed : (after 0x30000004 0x1234 (start 0x5F3A9C21)).map (·.blk) = some (resetBlock 0x5F3A9C21) := by
  decide

theorem test_rtcWren_set : (after 0x30000008 3 (start 0)).map (·.blk.rtcEn) = some true := by decide

theorem test_rtcWren_bit0 : (after 0x30000008 0xFFFFFFFE (open_ 0x00010002)).map (fun t => (t.blk.rtc, t.blk.rtcEn))
    = some (0x00010002, false) := by decide

theorem test_rtcTick_wraps : (after 0xC0000001 0 (start 0xFFFFFFFF)).map (fun t => (t.blk.rtc, t.trace))
    = some (0, [.schedRequest .rtc 200000000]) := by decide

theorem test_rtcTick_armed : (after 0xC0000001 0 (open_ 0x0000FFFF)).map (fun t => (t.blk.rtc, t.blk.rtcEn))
    = some (0x00010000, true) := by decide

/-! ### REG: V4, V5 -/

theorem test_regRd8Rst : reads 0x40002C00 (pair 0xAB 0xFE) 0xFE := by unfold reads; decide

theorem test_regWr8Rst : (after 0x60002C00 0x103 (pair 0x12 0xFE)).map (fun t => (t.blk.armrst, t.blk.vreg, t.trace))
    = some (0x03, 0x12, [.copSetEnabled false]) := by decide

theorem test_regWr8Rst_enables : (after 0x60002C00 0xFE (pair 0 1)).map (fun t => (t.blk.armrst, t.trace))
    = some (0xFE, [.copSetEnabled true]) := by decide

theorem test_regRd8Vreg : reads 0x40002C01 (pair 0xAB 0xFE) 0xAB := by unfold reads; decide

theorem test_regWr8Vreg : (after 0x60002C01 0x1FF (pair 0 3)).map (fun t => (t.blk.armrst, t.blk.vreg, t.trace))
    = some (0x03, 0xFF, [.log (.vregWrite 0xFF)]) := by decide

theorem test_regRd16Pair : reads 0x48002C00 (pair 0xFF 0x03) 0xFF03 := by unfold reads; decide

theorem test_regWr16Pair :
    (after 0x68002C00 0xFFFFAB00 (pair 0xFF 3)).map (fun t => (t.blk.armrst, t.blk.vreg, t.trace))
    = some (0x00, 0xAB, [.log (.vregArmrstWrite 0xAB 0x00), .copSetEnabled true]) := by decide

theorem test_regRdBadw : diagnosed 0x50002C00 0 (pair 0x12 1) (some 0) (.regInvalidWidthRead 0x2C00 .b4) := by
  unfold diagnosed; decide

theorem test_regWrBadw : diagnosed 0x70000004 0xCAFEF00D (pair 0x12 1) none (.regInvalidWidthWrite 4 .b4 0xCAFEF00D) := by
  unfold diagnosed; decide

/-- The external register file answers 0xBEEF. -/
def answering : State := { pair 0x12 1 with env := { (start 0).env with extAnswers := [0xBEEF] } }

theorem test_regRdPass_two : seen 0x48002C01 0 answering = some (some 0xBEEF, [.extRead 0x2C01 (.half 0xBEEF)]) := by decide
theorem test_regRdPass_one : seen 0x40002C02 0 answering = some (some 0xEF, [.extRead 0x2C02 (.byte 0xEF)]) := by decide

theorem test_regWrPass_two : (after 0x68002C01 0x5555 (pair 0x12 1)).map (fun t => (t.blk, t.trace))
    = some ((pair 0x12 1).blk, [.extWrite 0x2C01 (.half 0x5555)]) := by decide

theorem test_regWrPass_one : seen 0x60000000 0x155 (start 0) = some (none, [.extWrite 0 (.byte 0x55)]) := by decide

/-! ### DMA registers: V6 and the examples of 42_dma R181 to R193 -/

/-- A channel with a different value in every register. -/
def mixed : Channel := ⟨0x00800020, 0x0C001000, 0x80002000, 0xFFFFFFFE, 0x80000001, 0, 0xA5A5A5A5⟩

theorem test_dmaRdDst : reads 0x90000020 (with_ .ch1 mixed) 0x00800020 := by unfold reads; decide
theorem test_dmaRdSrc : reads 0x90000004 (with_ .ch0 mixed) 0x0C001000 := by unfold reads; decide
theorem test_dmaRdLen : reads 0x90000008 (with_ .ch0 mixed) 0x80002000 := by unfold reads; decide
theorem test_dmaRdDir : reads 0x9000006C (with_ .ch3 mixed) 0xFFFFFFFE := by unfold reads; decide
theorem test_dmaRdEn : reads 0x90000074 (with_ .ch3 mixed) 0x80000001 := by unfold reads; decide
theorem test_dmaRdSt : reads 0x90000018 busy 1 := by unfold reads; decide
theorem test_dmaRdSusp : reads 0x9000003C (with_ .ch1 mixed) 0xA5A5A5A5 := by unfold reads; decide

theorem test_dmaWrDst : channelAfter 0xB0000000 0xFFFFFFFF .ch0 (with_ .ch0 mixed)
    = some ({ mixed with dst := 0xFFFFFFFF }, []) := by decide
theorem test_dmaWrSrc : channelAfter 0xB0000024 3 .ch1 (with_ .ch1 mixed) = some ({ mixed with src := 3 }, []) := by decide
theorem test_dmaWrLen : channelAfter 0xB0000048 0xFFFFFFFF .ch2 (with_ .ch2 mixed)
    = some ({ mixed with len := 0xFFFFFFFF }, []) := by decide
theorem test_dmaWrDir : channelAfter 0xB000006C 0xFFFFFFFE .ch3 (with_ .ch3 (xfer 1 2 3 0 5))
    = some (xfer 1 2 3 0xFFFFFFFE 5, []) := by decide
theorem test_dmaWrEn : channelAfter 0xB0000074 0x80000001 .ch3 (with_ .ch3 (xfer 1 2 3 4 0))
    = some (xfer 1 2 3 4 0x80000001, []) := by decide
theorem test_dmaWrSusp : channelAfter 0xB000003C 0 .ch1 (with_ .ch1 mixed) = some ({ mixed with susp := 0 }, []) := by decide

theorem test_dmaRdRsvd : diagnosed 0x90000019 0 (with_ .ch0 mixed) (some 0) (.dmaInvalidRegRead .ch0 0x19) := by
  unfold diagnosed; decide
theorem test_dmaWrRsvd : diagnosed 0xB0000050 7 (with_ .ch2 mixed) none (.dmaInvalidRegWrite .ch2 0x10 7) := by
  unfold diagnosed; decide
theorem test_dmaRdBadw : diagnosed 0x88000014 0 (with_ .ch0 mixed) (some 0) (.dmaInvalidWidthRead .ch0 0x14 .b2) := by
  unfold diagnosed; decide
theorem test_dmaWrBadw : diagnosed 0xA0000018 1 (with_ .ch0 mixed) none (.dmaInvalidWidthWrite .ch0 0x18 .b1 1) := by
  unfold diagnosed; decide

/-! ### DMA transfers: W2 to W8, V7, V8, V9 -/

/-- V8, `LEN = 0x800003FF`: inline, auto-repeat keeps the enable, the indicator is set. -/
theorem test_dma0WrSt_inline : channelAfter 0xB0000018 1 .ch0 (with_ .ch0 (xfer 0x0C001000 0x00800000 0x800003FF 0 1))
    = some ({ xfer 0x0C0013FF 0x008003FF 0 0 1 with susp := 0x10 },
        [.move 0x00800000 0x0C001000 0x3FF, .raiseInt ⟨.ch0⟩]) := by decide

/-- V9 (f) line 7, with the length 0x7FFFFFFF of V8: the delta is not reduced modulo 2^32. -/
theorem test_dma0WrSt_deferred :
    channelAfter 0xB0000018 1 .ch0 (with_ .ch0 { xfer 0x100 0x200 0x7FFFFFFF 0 1 with susp := 0xFFFFFFFF })
    = some ({ xfer 0x100 0x200 0x7FFFFFFF 0 1 with st := 1, susp := 0xFFFFFFEF },
        [.move 0x200 0x100 0x7FFFFFFF, .schedRequest .dma0 8589934588]) := by decide

theorem test_dma1WrSt : channelAfter 0xB0000038 1 .ch1 (with_ .ch1 (xfer 0x0C000000 0x01000000 0x100 0 1))
    = some (xfer 0x0C000100 0x01000100 0 0 0, [.log (.dmaXfer .ch1 false 0x01000000 0x0C000000 0x100),
        .move 0x01000000 0x0C000000 0x100, .raiseInt ⟨.ch1⟩]) := by decide

/-- W4: direction 1 and auto-repeat. -/
theorem test_dma2WrSt : channelAfter 0xB0000058 1 .ch2 (with_ .ch2 (xfer 0x0C000000 0x01000000 0x80000040 1 1))
    = some (xfer 0x0C000040 0x01000040 0 1 1, [.log (.dmaXfer .ch2 true 0x0C000000 0x01000000 0x40),
        .move 0x0C000000 0x01000000 0x40, .raiseInt ⟨.ch2⟩]) := by decide

/-- W2 line 8. -/
theorem test_dma2WrSt_disabled : channelAfter 0xB0000058 0xFFFFFFFF .ch2 (with_ .ch2 (xfer 1 2 3 1 2))
    = some (xfer 1 2 3 1 2, []) := by decide

/-- V7 line 14: the source address wraps. -/
theorem test_dma3WrSt_wraps : channelAfter 0xB0000078 1 .ch3 (with_ .ch3 (xfer 0xFFFFFFF0 8 0x20 0 1))
    = some (xfer 0x10 0x28 0 0 0, [.log (.dmaXfer .ch3 false 8 0xFFFFFFF0 0x20),
        .move 8 0xFFFFFFF0 0x20, .raiseInt ⟨.ch3⟩]) := by decide

/-- V7 line 7: data bit 0 clear. -/
theorem test_dma3WrSt_bit0 : channelAfter 0xB0000078 0xFFFFFFFE .ch3 (with_ .ch3 (xfer 1 2 3 0 1))
    = some (xfer 1 2 3 0 1, []) := by decide

/-- W8 line 8. -/
theorem test_dma0Done : channelAfter 0xC0000002 0 .ch0 busy
    = some ({ xfer 0x0C003000 0x00802000 0 0 0 with susp := 0x10 }, [.raiseInt ⟨.ch0⟩]) := by decide

/-- V9 (g). -/
theorem test_dma0Done_idle : (after 0xC0000002 0 (start 0)).map (fun t => (t.blk, t.trace)) = some (resetBlock 0, []) := by
  decide

/-- W8's table of Cycles(8192). -/
theorem test_cycles : [200000000, 199999999, 150000000, 100000000, 50000000, 49999999, 0].map
    (fun c => cycles { defaultConfig with clock := c } 8192) = [32768, 24576, 24576, 16384, 8192, 0, 0] := by decide

/-- A channel of `bytes` ready to copy two bytes. -/
def bytes (src dst : Word) : State :=
  { with_ .ch1 (xfer src dst 2 0 1) with env := { (start 0).env with mem := [(16, 0xA1), (17, 0xB2), (33, 0x00)] } }

/-- 20_memory R64: the bytes are copied as they stand; only the destination range changes. -/
theorem test_move_copies : (after 0xB0000038 1 (bytes 16 32)).map (·.env.mem)
    = some [(16, 0xA1), (17, 0xB2), (32, 0xA1), (33, 0xB2)] := by decide

/-- 20_memory R77, 93 U5: overlapping ranges leave the destination at any value. -/
theorem test_move_overlap : (after 0xB0000038 1 (bytes 16 17)).map (·.env.mem) = some [(16, 0xA1), (33, 0x00)] := by decide

/-! ### RESET and OPW.INVALID -/

/-- W7 line 9. -/
theorem test_reset : (after 0xC0000000 0x8D3F2A10 { busy with blk := { busy.blk with rtcEn := true, vreg := 0xAB } }).map
    (fun t => (t.blk, t.trace, t.env.armDma0)) = some (resetBlock 0x8D3F2A10, [], [32768]) := by decide

theorem test_opwInvalid : after 0xC0000003 0 (start 0) = none := by decide

/-- 40_rtc R130 with the default offset: the Unix epoch is 631,152,000 seconds after the RTC's. -/
theorem test_timeSourceSeed : timeSourceSeed defaultConfig 0 0 = 631152000#32 := by decide

/-! ### Witnesses: for every statement with hypotheses, states and operands that meet them, clause by clause at the
values where clauses meet -/

theorem start_inv (seed : Word) : Inv (start seed) where
  gpIdle c _ := by cases c <;> rfl
  st0Bit := Or.inl rfl
  busyIsArmed _ := rfl
  tickArmed := by simp [start, State.reset]
  memWf := by simp [start, State.reset, Memory.wf]

theorem busy_inv : Inv busy where
  gpIdle c h := by cases c <;> first | rfl | exact absurd rfl h
  st0Bit := Or.inr rfl
  busyIsArmed h := by simp [busy] at h
  tickArmed := by simp [busy, with_, start, State.reset, State.setChan]
  memWf := by simp [busy, with_, start, State.reset, State.setChan, Memory.wf]

/-- DecodeOfEncodeIsTheOperation, OfferedOperationRuns: operands at the ends of their ranges. -/
theorem witness_wf : (Instr.rtcWrinv .b4 0xFF 0xFFFFFFFF).wf defaultConfig = true ∧
    (Instr.rtcRdinv .b1 1).wf defaultConfig = true ∧ (Instr.regRdPass .two 0x2C01).wf defaultConfig = true ∧
    (Instr.regWrPass .one 0x7FFF 1).wf defaultConfig = true ∧ (Instr.dmaWrRsvd .ch3 0x1F 1).wf defaultConfig = true ∧
    (Instr.opwInvalid 0xC0000003).wf defaultConfig = true := by decide

/-- RegDispatchFollowsTheMaskedAddress: A_RST, A_VREG, and the addresses beside them. -/
theorem witness_regDispatch : (0xAC00#32).extractLsb' 0 15 = defaultConfig.aRst ∧
    (0xFFFFAC01#32).extractLsb' 0 15 = defaultConfig.aRst + 1#15 ∧
    ((0x2BFF#32).extractLsb' 0 15 ≠ defaultConfig.aRst ∧ (0x2BFF#32).extractLsb' 0 15 ≠ defaultConfig.aRst + 1#15) ∧
    ((0x2C02#32).extractLsb' 0 15 ≠ defaultConfig.aRst ∧ (0x2C02#32).extractLsb' 0 15 ≠ defaultConfig.aRst + 1#15) := by
  decide

/-- StepRunsTheDecodedOperation, StepTakesOneOperation. -/
theorem witness_step : ((start 0).offer ⟨0xC0000001, 0⟩).pending = ⟨0xC0000001, 0⟩ :: [] ∧ (start 0).pending = [] ∧
    ∃ t, step ((start 0).offer ⟨0xC0000001, 0⟩) = .next t := ⟨rfl, rfl, _, rfl⟩

/-- EveryOperationCompletes. -/
theorem witness_notInvalid : ∀ w, Instr.dma0Done ≠ .opwInvalid w := by intro w h; cases h

/-- SafeStepCompletes: DMA0.DONE with a request armed; and a bus operation with none. -/
theorem witness_safeToStep : safeToStep (busy.offer ⟨0xC0000002, 0⟩) = true ∧
    safeToStep ((start 0).offer ⟨0xB0000018, 1⟩) = true := by decide

/-- StepKeepsTheInvariant: from an idle and from a busy state. -/
theorem witness_stepInv : (Inv ((start 0).offer ⟨0xC0000001, 0⟩) ∧ ∃ t, step ((start 0).offer ⟨0xC0000001, 0⟩) = .next t) ∧
    Inv (busy.offer ⟨0xC0000002, 0⟩) ∧ ∃ t, step (busy.offer ⟨0xC0000002, 0⟩) = .next t :=
  have i := start_inv 0
  have b := busy_inv
  ⟨⟨⟨i.1, i.2, i.3, i.4, i.5⟩, _, rfl⟩, ⟨b.1, b.2, b.3, b.4, b.5⟩, _, rfl⟩

/-- RtcInvalidOffsetsAreDiagnosed: the offsets beside the valid ones, and the last. -/
theorem witness_rtcOffsets : ∀ off ∈ [1#8, 3#8, 5#8, 7#8, 9#8, 255#8], off ≠ 0#8 ∧ off ≠ 4#8 ∧ off ≠ 8#8 := by decide

/-- RtcWritesFollowTheLatch, both cases; OnlyItsOwnOperationsChangeTheRtc. -/
theorem witness_latch : (open_ 0).blk.rtcEn = true ∧ (start 0).blk.rtcEn = false ∧
    ∃ t, exec (.rtcWrh .b4 1) (open_ 0) = .next t := ⟨rfl, rfl, _, rfl⟩

/-- WriteWindowSequences, its last clause: the three operations that close the window. -/
theorem witness_windowCloses : (open_ 0).blk.rtcEn = true ∧
    (∃ t, exec (.rtcWrh .b4 1) (open_ 0) = .next t ∧ t.blk.rtcEn = false) ∧
    (∃ t, exec (.rtcWren .b4 0xFFFFFFFE) (open_ 0) = .next t ∧ t.blk.rtcEn = false) ∧
    (∃ t, exec (.reset 9) (open_ 0) = .next t ∧ t.blk.rtcEn = false) :=
  ⟨rfl, ⟨_, rfl, rfl⟩, ⟨_, rfl, rfl⟩, _, rfl, rfl⟩

/-- TickBetweenHalfAccesses: V3, and the counter about to wrap. -/
theorem witness_lowHalfOnes : (start 0x0001FFFF).blk.rtc.extractLsb' 0 16 = 0xFFFF#16 ∧
    (start 0xFFFFFFFF).blk.rtc.extractLsb' 0 16 = 0xFFFF#16 := by decide

/-- CopSetEnabledFollowsLatchWrites: both writers, and an operation that is neither. -/
theorem witness_copWriters : (∃ t, exec (.regWr8Rst 1) (start 0) = .next t) ∧
    (∃ t, exec (.regWr16Pair 0xFE) (start 0) = .next t) ∧ ∃ t, exec (.regWr8Vreg 1) (start 0) = .next t :=
  ⟨⟨_, rfl⟩, ⟨_, rfl⟩, _, rfl⟩

/-- PassThroughReadsForward, PassThroughWritesForward: an answer listed, none listed, and the addresses of each width. -/
theorem witness_passThrough : answering.env.extAnswers = 0xBEEF :: [] ∧ (start 0).env.extAnswers = [] ∧
    (0x2BFF#15 ≠ (start 0).cfg.aRst ∧ 0x2BFF#15 ≠ (start 0).cfg.aRst + 1#15) ∧
    (0x2C02#15 ≠ (start 0).cfg.aRst ∧ 0x2C02#15 ≠ (start 0).cfg.aRst + 1#15) ∧
    0x2C01#15 ≠ (start 0).cfg.aRst := by decide

/-- StatusReadsAsBusy: idle and busy; a write that starts nothing by its data and by the enable. -/
theorem witness_status : Inv (start 0) ∧ Inv busy ∧ (busy.chan .ch0).st.getLsbD 0 = true ∧
    (0xFFFFFFFE#32).getLsbD 0 = false ∧ ((start 0).chan .ch3).en.getLsbD 0 = false :=
  ⟨start_inv 0, busy_inv, rfl, rfl, rfl⟩

/-- DmaInvalidAccessesAreDiagnosed: idx 4 aligned, a register misaligned, and both at the top. -/
theorem witness_dmaInvalid : (0x10#5).extractLsb' 2 3 = 4#3 ∧ (0x1D#5).extractLsb' 0 2 ≠ 0#2 ∧
    (0x03#5).extractLsb' 0 2 ≠ 0#2 ∧ ((0x13#5).extractLsb' 2 3 = 4#3 ∧ (0x13#5).extractLsb' 0 2 ≠ 0#2) := by decide

/-- A channel ready to copy 1023 or 1024 bytes (the two sides of the threshold, V8). -/
def ready (c : Chan) (len : Word) : State := with_ c (xfer 0x0C001000 0x00800000 len 0 1)

/-- TriggerNeedsBothBits, PrimaryTriggerCompletesOrDefers: inline at 1023 bytes, deferred at 1024, off by either bit. -/
theorem witness_primary : (1#32).getLsbD 0 = true ∧ (0xFFFFFFFE#32).getLsbD 0 = false ∧
    (((ready .ch0 1023).chan .ch0).en.getLsbD 0 = true ∧
      (((ready .ch0 1023).chan .ch0).len &&& 0x7FFFFFFF#32).toNat * ((ready .ch0 1023).cfg.clock / 2 / 25000000) < 4096) ∧
    (((ready .ch0 1024).chan .ch0).en.getLsbD 0 = true ∧
      4096 ≤ (((ready .ch0 1024).chan .ch0).len &&& 0x7FFFFFFF#32).toNat * ((ready .ch0 1024).cfg.clock / 2 / 25000000)) ∧
    ((start 0).chan .ch0).en.getLsbD 0 = false := by decide

/-- GeneralPurposeTriggerCompletesAtOnce: the channels 1 to 3, enabled and not. -/
theorem witness_gp : ∀ c ∈ [Chan.ch1, .ch2, .ch3], c ≠ .ch0 ∧ ((ready c 0x80000000).chan c).en.getLsbD 0 = true ∧
    ((start 0).chan c).en.getLsbD 0 = false := by decide

/-- DeferredCompletionIsGuardedByBusy. -/
theorem witness_done : (busy.chan .ch0).st.getLsbD 0 = true ∧ ((start 0).chan .ch0).st.getLsbD 0 = false := by decide

/-- CyclesAreNaturalProducts. -/
theorem witness_clock : ({ defaultConfig with clock := 49999999 } : Config).clock < 50000000 ∧
    defaultConfig.clock = 200000000 := by decide

/-- TriggerMovesTheBytes: the premises, an address just outside the destination, and a transfer in the stated domain. -/
theorem witness_move : (bytes 16 32).env.mem.wf ∧ ((bytes 16 32).chan .ch1).en.getLsbD 0 = true ∧
    2 ≤ (34 + 2 ^ 32 - 32) % 2 ^ 32 ∧ 2 ≤ (31 + 2 ^ 32 - 32) % 2 ^ 32 ∧
    (32 + 2 ≤ 2 ^ 32 ∧ 16 + 2 ≤ 2 ^ 32 ∧ (32 + 2 ≤ 16 ∨ 16 + 2 ≤ 32)) ∧
    (∃ g ∈ (bytes 16 32).cfg.ram, g.base ≤ 32 ∧ 32 + 2 ≤ g.base + g.size) ∧
    (∃ g ∈ (bytes 16 32).cfg.ram, g.base ≤ 16 ∧ 16 + 2 ≤ g.base + g.size) := by decide

/-- OnlyTriggersTouchTheMemory: a plain write, and a trigger of a disabled channel. -/
theorem witness_noTransfer : (∃ t, exec (.dmaWrLen .ch1 4) (bytes 16 32) = .next t) ∧
    (∀ c d, Instr.dmaWrLen .ch1 4 ≠ wrSt c d) ∧ (∃ t, exec (.dma2WrSt 1) (bytes 16 32) = .next t) ∧
    ((bytes 16 32).chan .ch2).en.getLsbD 0 = false :=
  ⟨⟨_, rfl⟩, by intro c d; cases c <;> simp [wrSt], ⟨_, rfl⟩, rfl⟩

/-- RetriggerWhileBusyRaisesOnce: the retrigger deferred (V9 (c)) and inline (V9 (e)). -/
theorem witness_retrigger : (busy.chan .ch0).st.getLsbD 0 = true ∧ (busy.chan .ch0).en.getLsbD 0 = true ∧
    inlineTransfer busy.cfg (busy.chan .ch0).count = false ∧
    inlineTransfer busy.cfg ((busy.setChan .ch0 { busy.chan .ch0 with len := 0x10 }).chan .ch0).count = true := by decide

/-- PhaseTransitions: a deferring trigger from idle; a plain write while busy; DMA0.DONE and RESET while busy. -/
theorem witness_phase : Inv (start 0) ∧ Inv busy ∧ (∃ t, exec (.dma0WrSt 1) busy = .next t) ∧
    (∃ t, exec (.dmaWrLen .ch0 4) busy = .next t) ∧ (∃ t, exec .dma0Done busy = .next t) ∧
    ∃ t, exec (.reset 0) busy = .next t := ⟨start_inv 0, busy_inv, ⟨_, rfl⟩, ⟨_, rfl⟩, ⟨_, rfl⟩, _, rfl⟩

/-- InterruptsComeFromCompletions, DiagnosticsAreTheTables, ArmedRequestsAreNeverCancelled: an operation of each case. -/
theorem witness_cases : (∃ t, exec (.dma1WrSt 1) (bytes 16 32) = .next t) ∧ (∃ t, exec .dma0Done busy = .next t) ∧
    (∃ t, exec (.dmaRdBadw .one .ch0 0x18) (start 0) = .next t) ∧
    (((start 0).chan .ch1).en.getLsbD 0 = false ∧ ∃ t, exec (.dma1WrSt 1) (start 0) = .next t) ∧
    ((start 0).blk.rtcEn = false ∧ ∃ t, exec (.rtcWrl .b4 1) (start 0) = .next t) ∧
    (∃ t, exec .rtcTick (start 0) = .next t) ∧ ∃ t, exec (.dma0WrSt 1) (ready .ch0 1024) = .next t :=
  ⟨⟨_, rfl⟩, ⟨_, rfl⟩, ⟨_, rfl⟩, ⟨rfl, _, rfl⟩, ⟨rfl, _, rfl⟩, ⟨_, rfl⟩, _, rfl⟩

/-- BareRetriggerMovesNothing. -/
theorem witness_bareRetrigger : Chan.ch1 ≠ .ch0 ∧ (1#32).getLsbD 0 = true ∧
    ((ready .ch1 0x80000040).chan .ch1).en.getLsbD 0 = true ∧
    ((ready .ch1 0x80000040).chan .ch1).len.getLsbD 31 = true := by decide

/-- PseudoOperationScripts, its last clause: the lengths at the threshold; BusAddressesReachTheRegisters: the three valid
offsets and one beside them, the first and the last address of the other windows, and the addresses just outside. -/
theorem witness_scripts : (1023 &&& 0x7FFFFFFF#32).toNat * ((start 0).cfg.clock / 2 / 25000000) < 4096 ∧
    4096 ≤ (1024 &&& 0x7FFFFFFF#32).toNat * ((start 0).cfg.clock / 2 / 25000000) ∧ Chan.ch1 ≠ .ch0 := by decide

theorem witness_bus :
    ([0x00710000#32, 0x00710004, 0x00710008, 0x0071000C, 0x007100FF].map fun a =>
      (Region.holds defaultConfig.rtcWindow a, a.extractLsb' 0 8 &&& defaultConfig.rtcOffMask)) =
      [(true, 0), (true, 4), (true, 8), (true, 0x0C), (true, 0xFF)] ∧
    ([0x00700000#32, 0x00707FFF].map fun a =>
      (Region.holds defaultConfig.rtcWindow a, Region.holds defaultConfig.regWindow a)) = [(false, true), (false, true)] ∧
    ([0x005F7800#32, 0x005F787C].map fun a => (Region.holds defaultConfig.rtcWindow a,
      Region.holds defaultConfig.regWindow a, Region.holds defaultConfig.dmaWindow a)) =
      [(false, false, true), (false, false, true)] ∧
    (0x005F787C#32).toNat = defaultConfig.dmaWindow.base + 0x20 * Chan.num .ch3 + 4 * DmaReg.idx .susp ∧
    ([0x00710100#32, 0x00708000, 0x005F7880, 0x005F77FF].map fun a => (Region.holds defaultConfig.rtcWindow a,
      Region.holds defaultConfig.regWindow a, Region.holds defaultConfig.dmaWindow a)) =
      [(false, false, false), (false, false, false), (false, false, false), (false, false, false)] := by decide

/-- RunIsOverWhenNothingIsOutstanding: a run that is over, and one that is not. -/
theorem witness_runOver : (Inv (start 0) ∧ (start 0).pending = [] ∧ (start 0).env.armDma0 = []) ∧
    Inv busy ∧ busy.pending = [] ∧ busy.env.armDma0 ≠ [] :=
  ⟨⟨start_inv 0, rfl, rfl⟩, busy_inv, rfl, by decide⟩

/-- With nothing offered, the step tells a run that is not over (10_state R35(d)) from one the model calls over (log entry
21). -/
theorem test_runOver : (start 0).runOver = true ∧ busy.runOver = false ∧ (start 0).idleRefusal = .noOperationOffered ∧
    busy.idleRefusal = .completionOutstanding := by decide

/-- PartsAreIndependent: an operation of every part. -/
theorem witness_partOf : partOf (.rtcWrl .b4 1) = some .rtc ∧ partOf (.regWr8Rst 1) = some .latch ∧
    partOf (.reset 1) = none ∧ partOf (.dmaWrDst .ch2 1) = some .dma ∧ (∃ t, exec (.reset 1) (start 0) = .next t) ∧
    ∃ t, exec (.regWr8Rst 1) (start 0) = .next t := ⟨rfl, rfl, rfl, rfl, ⟨_, rfl⟩, _, rfl⟩

/-- PartsAreIndependent: two states that agree on channel 1 and differ elsewhere; an RTC operation between two that agree
on the counter and differ in channel 1. -/
theorem witness_parts : (start 0).cfg = (start 5).cfg ∧ (start 0).chan .ch1 = (start 5).chan .ch1 ∧
    channelOf (.dma1WrSt 1) = some .ch1 ∧ (∃ t, exec (.dma1WrSt 1) (start 0) = .next t) ∧
    (∃ t, exec (.dma1WrSt 1) (start 5) = .next t) ∧ channelOf (.rtcRdh .b4) = none ∧
    (ready .ch1 4).blk.rtc = (start 0).blk.rtc ∧ (ready .ch1 4).env = (start 0).env ∧
    (ready .ch1 4).chan .ch1 ≠ (start 0).chan .ch1 :=
  ⟨rfl, rfl, rfl, ⟨_, rfl⟩, ⟨_, rfl⟩, rfl, rfl, rfl, by decide⟩

/-- ReadsHaveNoSideEffect: an intercepted read and another. -/
theorem witness_reads : isPlainRead .regRd16Pair = true ∧ (∃ t, exec .regRd16Pair (start 0) = .next t) ∧
    (isRead (.regRdPass .one 0) = true ∧ isPlainRead (.regRdPass .one 0) = false) ∧
    ∃ t, exec (.regRdPass .one 0) (start 0) = .next t := ⟨rfl, ⟨_, rfl⟩, ⟨rfl, rfl⟩, _, rfl⟩

end Sys2Proof.Tests
end

/-! PROOFS. The decoder on the words of spec/30_encoding.md R91, port by port and width by width, and with it the round
trip from an operation to its word and back. -/

namespace Sys2Proof
open Machine

section ports
variable (cfg : Config) (d : Word)

@[simp] theorem Width.ofCode_code (w : Width) : Width.ofCode w.code = w := by cases w <;> rfl

theorem Width.code_ne_reserved (w : Width) : w.code ≠ 3#2 := by cases w <;> decide

@[simp] theorem Narrow.ofCode_code (w : Narrow) : Narrow.ofCode w.toWidth.code = w := by cases w <;> rfl

theorem Narrow.code_ne_word (w : Narrow) : w.toWidth.code ≠ 2#2 := by cases w <;> decide

theorem Machine.aVreg_ne_aRst : aVreg cfg ≠ cfg.aRst := by
  intro h
  have := congrArg BitVec.toNat h
  rw [aVreg_toNat] at this
  omega

/-- An RTC read, by its offset (30_encoding R95 rows 1 to 3 and 7). -/
@[simp] theorem decode_rtcRead (w : Width) (off : BitVec 8) :
    decode cfg ⟨opwOf 0#2 0#1 w.code (rtcSel off), d⟩ =
      if off = 0#8 then .rtcRdh w else if off = 4#8 then .rtcRdl w else if off = 8#8 then .rtcRden w
      else .rtcRdinv w off := by
  simp [decode_eq_decodeFields, decodeFields, w.code_ne_reserved]

/-- An RTC write, by its offset (30_encoding R95 rows 4 to 6 and 8). -/
@[simp] theorem decode_rtcWrite (w : Width) (off : BitVec 8) :
    decode cfg ⟨opwOf 0#2 1#1 w.code (rtcSel off), d⟩ =
      if off = 0#8 then .rtcWrh w d else if off = 4#8 then .rtcWrl w d else if off = 8#8 then .rtcWren w d
      else .rtcWrinv w off d := by
  simp [decode_eq_decodeFields, decodeFields, w.code_ne_reserved]

/-- A 1-byte REG read (30_encoding R95 rows 9, 11 and 17). -/
@[simp] theorem decode_regReadByte (a : RegAddr) :
    decode cfg ⟨opwOf 1#2 0#1 0#2 a, d⟩ =
      if a = cfg.aRst then .regRd8Rst else if a = aVreg cfg then .regRd8Vreg else .regRdPass .one a := by
  simp [decode_eq_decodeFields, decodeFields, Narrow.ofCode]

/-- A 1-byte REG write (30_encoding R95 rows 10, 12 and 18). -/
@[simp] theorem decode_regWriteByte (a : RegAddr) :
    decode cfg ⟨opwOf 1#2 1#1 0#2 a, d⟩ =
      if a = cfg.aRst then .regWr8Rst d else if a = aVreg cfg then .regWr8Vreg d else .regWrPass .one a d := by
  simp [decode_eq_decodeFields, decodeFields, Narrow.ofCode]

/-- A 2-byte REG read (30_encoding R95 rows 13 and 17). -/
@[simp] theorem decode_regReadHalf (a : RegAddr) :
    decode cfg ⟨opwOf 1#2 0#1 1#2 a, d⟩ = if a = cfg.aRst then .regRd16Pair else .regRdPass .two a := by
  simp [decode_eq_decodeFields, decodeFields, Narrow.ofCode]

/-- A 2-byte REG write (30_encoding R95 rows 14 and 18). -/
@[simp] theorem decode_regWriteHalf (a : RegAddr) :
    decode cfg ⟨opwOf 1#2 1#1 1#2 a, d⟩ = if a = cfg.aRst then .regWr16Pair d else .regWrPass .two a d := by
  simp [decode_eq_decodeFields, decodeFields, Narrow.ofCode]

theorem regIntercepted_one_eq_false {a : RegAddr} :
    regIntercepted cfg .one a = false ↔ a ≠ cfg.aRst ∧ a ≠ aVreg cfg := by simp [regIntercepted]

theorem regIntercepted_two_eq_false {a : RegAddr} : regIntercepted cfg .two a = false ↔ a ≠ cfg.aRst := by
  simp [regIntercepted]

/-- A REG read that the decoder does not intercept is forwarded (41_reset_latch_decoder R150). -/
theorem decode_regReadPass {w : Narrow} {a : RegAddr} (h : regIntercepted cfg w a = false) :
    decode cfg ⟨opwOf 1#2 0#1 w.toWidth.code a, d⟩ = .regRdPass w a := by
  cases w with
  | one => simp [Narrow.toWidth, Width.code, (regIntercepted_one_eq_false cfg).1 h]
  | two => simp [Narrow.toWidth, Width.code, (regIntercepted_two_eq_false cfg).1 h]

/-- A REG write that the decoder does not intercept is forwarded (41_reset_latch_decoder R150). -/
theorem decode_regWritePass {w : Narrow} {a : RegAddr} (h : regIntercepted cfg w a = false) :
    decode cfg ⟨opwOf 1#2 1#1 w.toWidth.code a, d⟩ = .regWrPass w a d := by
  cases w with
  | one => simp [Narrow.toWidth, Width.code, (regIntercepted_one_eq_false cfg).1 h]
  | two => simp [Narrow.toWidth, Width.code, (regIntercepted_two_eq_false cfg).1 h]

/-- A 4-byte REG read (30_encoding R95 row 15). -/
@[simp] theorem decode_regReadWord (a : RegAddr) : decode cfg ⟨opwOf 1#2 0#1 2#2 a, d⟩ = .regRdBadw a := by
  simp [decode_eq_decodeFields, decodeFields]

/-- A 4-byte REG write (30_encoding R95 row 16). -/
@[simp] theorem decode_regWriteWord (a : RegAddr) : decode cfg ⟨opwOf 1#2 1#1 2#2 a, d⟩ = .regWrBadw a d := by
  simp [decode_eq_decodeFields, decodeFields]

/-- A 4-byte DMA read, by SEL[4:0] (30_encoding R95 rows 19 to 25 and 36). -/
@[simp] theorem decode_dmaRead (c : Chan) (low : BitVec 5) :
    decode cfg ⟨opwOf 2#2 0#1 2#2 (dmaSel c low), d⟩ =
      if low = 0x00#5 then .dmaRdDst c else if low = 0x04#5 then .dmaRdSrc c else if low = 0x08#5 then .dmaRdLen c
      else if low = 0x0C#5 then .dmaRdDir c else if low = 0x14#5 then .dmaRdEn c else if low = 0x18#5 then .dmaRdSt c
      else if low = 0x1C#5 then .dmaRdSusp c else .dmaRdRsvd c low := by
  simp [decode_eq_decodeFields, decodeFields]

/-- A 4-byte DMA write, by SEL[4:0] (30_encoding R95 rows 26 to 35 and 37). -/
@[simp] theorem decode_dmaWrite (c : Chan) (low : BitVec 5) :
    decode cfg ⟨opwOf 2#2 1#1 2#2 (dmaSel c low), d⟩ =
      if low = 0x00#5 then .dmaWrDst c d else if low = 0x04#5 then .dmaWrSrc c d else if low = 0x08#5 then .dmaWrLen c d
      else if low = 0x0C#5 then .dmaWrDir c d else if low = 0x14#5 then .dmaWrEn c d
      else if low = 0x1C#5 then .dmaWrSusp c d else if low = 0x18#5 then wrSt c d else .dmaWrRsvd c low d := by
  cases c <;> simp [decode_eq_decodeFields, decodeFields, wrSt]

/-- A DMA read of 1 or 2 bytes (30_encoding R95 row 38). -/
@[simp] theorem decode_dmaReadNarrow (w : Narrow) (c : Chan) (low : BitVec 5) :
    decode cfg ⟨opwOf 2#2 0#1 w.toWidth.code (dmaSel c low), d⟩ = .dmaRdBadw w c low := by
  simp [decode_eq_decodeFields, decodeFields, w.toWidth.code_ne_reserved, w.code_ne_word]

/-- A DMA write of 1 or 2 bytes (30_encoding R95 row 39). -/
@[simp] theorem decode_dmaWriteNarrow (w : Narrow) (c : Chan) (low : BitVec 5) :
    decode cfg ⟨opwOf 2#2 1#1 w.toWidth.code (dmaSel c low), d⟩ = .dmaWrBadw w c low d := by
  simp [decode_eq_decodeFields, decodeFields, w.toWidth.code_ne_reserved, w.code_ne_word]

/-- An event, by its selector (30_encoding R95 rows 40 to 43). -/
@[simp] theorem decode_event (sel : RegAddr) :
    decode cfg ⟨opwOf 3#2 0#1 0#2 sel, d⟩ =
      if sel = 0#15 then .reset d else if sel = 1#15 then .rtcTick else if sel = 2#15 then .dma0Done
      else .opwInvalid (opwOf 3#2 0#1 0#2 sel) := by
  simp [decode_eq_decodeFields, decodeFields]

/-- The words of 30_encoding R96(b) are refused by the decoder. -/
theorem decode_opwSpellsNothing {w : Word} (h : opwSpellsNothing w = true) : decode cfg ⟨w, d⟩ = .opwInvalid w := by
  have hsel : 2 < (opwSel w).toNat → opwSel w ≠ 0#15 ∧ opwSel w ≠ 1#15 ∧ opwSel w ≠ 2#15 := by
    intro h2
    refine ⟨?_, ?_, ?_⟩ <;> intro he <;> simp [he] at h2
  have hrw : opwRw w = 1#1 → opwRw w ≠ 0#1 := by intro he; simp [he]
  simp only [opwSpellsNothing, Bool.or_eq_true, Bool.and_eq_true, beq_iff_eq, bne_iff_ne, decide_eq_true_eq] at h
  simp only [decode_eq_decodeFields, decodeFields]
  rcases h with (((hwc | hz) | ⟨hp, hhigh⟩) | ⟨hp, hhigh⟩) | ⟨hp, (hr | hc) | hs⟩
  · simp [hwc]
  · simp [hz]
  · simp [hp, hhigh]
  · simp [hp, hhigh]
  · simp [hp, hrw hr]
  · simp [hp, hc]
  · simp [hp, hsel hs]

/-- An invalid RTC offset is none of the three registers' (40_rtc R123, R127). -/
theorem rtcOffInvalid_iff {off : BitVec 8} : rtcOffInvalid off = true ↔ off ≠ 0#8 ∧ off ≠ 4#8 ∧ off ≠ 8#8 := by
  simp [rtcOffInvalid, and_assoc]

/-- SEL[4:0] that names no register is none of the seven registers' (42_dma R194). -/
theorem low_ne_of_dmaLowInvalid {low : BitVec 5} (h : dmaLowInvalid low = true) :
    low ≠ 0x00#5 ∧ low ≠ 0x04#5 ∧ low ≠ 0x08#5 ∧ low ≠ 0x0C#5 ∧ low ≠ 0x14#5 ∧ low ≠ 0x18#5 ∧ low ≠ 0x1C#5 := by
  revert low; decide

end ports

/-- Decode of encode is the operation (30_encoding R91, R92, R95): the word of a named register selects its own row, and
the operands that a catch-all row admits select no earlier one. -/
theorem decode_encode {cfg : Config} {i : Instr} (h : i.wf cfg = true) : decode cfg (encode cfg i) = i := by
  cases i with
  | rtcRdinv w off => simp [encode, rtcOffInvalid_iff.1 h]
  | rtcWrinv w off data => simp [encode, rtcOffInvalid_iff.1 h]
  | regRd8Vreg => simp [encode, aVreg_ne_aRst]
  | regWr8Vreg data => simp [encode, aVreg_ne_aRst]
  | regRdPass w a => exact decode_regReadPass cfg 0#32 (by simpa [Instr.wf] using h)
  | regWrPass w a data => exact decode_regWritePass cfg data (by simpa [Instr.wf] using h)
  | dmaRdRsvd c low => simp [encode, low_ne_of_dmaLowInvalid h]
  | dmaWrRsvd c low data => simp [encode, low_ne_of_dmaLowInvalid h]
  | opwInvalid w => exact decode_opwSpellsNothing cfg 0#32 h
  | _ => simp [encode, wrSt]

end Sys2Proof

/-! PROOFS. What executing one operation can do, said once for all of them: it completes, keeps the configuration and the
operations offered, appends the events of `emitted` and leaves a read result exactly when it is a read. -/

namespace Sys2Proof.Machine

/-- The events of a general-purpose trigger (42_dma R203): the log, the move, the interrupt. -/
def gpEmitted (c : Chan) (data : Word) (s : State) : List Event :=
  if s.triggers c data then
    [.log (.dmaXfer c (s.chan c).swapped (s.chan c).moveDst (s.chan c).moveSrc (s.chan c).count),
      .move (s.chan c).moveDst (s.chan c).moveSrc (s.chan c).count, .raiseInt ⟨c⟩]
  else []

/-- The events of the primary channel's trigger (42_dma R202): the move, then the interrupt or the callback request. -/
def primaryEmitted (data : Word) (s : State) : List Event :=
  if s.triggers .ch0 data then
    [.move (s.chan .ch0).moveDst (s.chan .ch0).moveSrc (s.chan .ch0).count,
      if inlineTransfer s.cfg (s.chan .ch0).count then .raiseInt ⟨.ch0⟩
      else .schedRequest .dma0 (cycles s.cfg (s.chan .ch0).count)]
  else []

/-- The events that an operation emits, oldest first (00_scope R9); `exec_takesOneOperation` ties them to `exec`. The plain
reads and writes, RESET and a word that is no access emit nothing. -/
def emitted (i : Instr) (s : State) : List Event :=
  match i with
  | .rtcRdinv _ off => [.diag (.rtcInvalidRead off)]
  | .rtcWrinv _ off data => [.diag (.rtcInvalidWrite off data)]
  | .regWr8Rst data => [.copSetEnabled (copEnabledBy (dataLowByte data))]
  | .regWr8Vreg data => [.log (.vregWrite (dataLowByte data))]
  | .regWr16Pair data =>
    [.log (.vregArmrstWrite (dataHighByte data) (dataLowByte data)), .copSetEnabled (copEnabledBy (dataLowByte data))]
  | .regRdBadw a => [.diag (.regInvalidWidthRead a .b4)]
  | .regWrBadw a data => [.diag (.regInvalidWidthWrite a .b4 data)]
  | .regRdPass w a => [.extRead a (RegVal.ofHalf w s.env.nextAnswer)]
  | .regWrPass w a data => [.extWrite a (RegVal.ofHalf w (dataHalf data))]
  | .dma0WrSt data => primaryEmitted data s
  | .dma1WrSt data => gpEmitted .ch1 data s
  | .dma2WrSt data => gpEmitted .ch2 data s
  | .dma3WrSt data => gpEmitted .ch3 data s
  | .dmaRdRsvd c low => [.diag (.dmaInvalidRegRead c low)]
  | .dmaWrRsvd c low data => [.diag (.dmaInvalidRegWrite c low data)]
  | .dmaRdBadw w c low => [.diag (.dmaInvalidWidthRead c low w.toWidth)]
  | .dmaWrBadw w c low data => [.diag (.dmaInvalidWidthWrite c low w.toWidth data)]
  | .rtcTick => [.schedRequest .rtc (rtcTickDelta s.cfg)]
  | .dma0Done => if (s.chan .ch0).busy then [.raiseInt ⟨.ch0⟩] else []
  | .rtcRdh _ | .rtcRdl _ | .rtcRden _ | .rtcWrh _ _ | .rtcWrl _ _ | .rtcWren _ _ => []
  | .regRd8Rst | .regRd8Vreg | .regRd16Pair => []
  | .dmaRdDst _ | .dmaRdSrc _ | .dmaRdLen _ | .dmaRdDir _ | .dmaRdEn _ | .dmaRdSt _ | .dmaRdSusp _ => []
  | .dmaWrDst _ _ | .dmaWrSrc _ _ | .dmaWrLen _ _ | .dmaWrDir _ _ | .dmaWrEn _ _ | .dmaWrSusp _ _ => []
  | .reset _ | .opwInvalid _ => []

section transfers
variable (s : State) (c : Chan) (data : Word)

@[simp] theorem State.gpTrigger_cfg : (s.gpTrigger c data).cfg = s.cfg := by
  obtain ⟨-, h⟩ | ⟨-, h⟩ := s.gpTrigger_cases c data <;> simp [h]

@[simp] theorem State.gpTrigger_pending : (s.gpTrigger c data).pending = s.pending := by
  obtain ⟨-, h⟩ | ⟨-, h⟩ := s.gpTrigger_cases c data <;> simp [h]

@[simp] theorem State.gpTrigger_trace : (s.gpTrigger c data).trace = s.trace ++ gpEmitted c data s := by
  obtain ⟨ht, h⟩ | ⟨ht, h⟩ := s.gpTrigger_cases c data <;> simp [h, gpEmitted, ht]

@[simp] theorem State.primaryTrigger_cfg : (s.primaryTrigger data).cfg = s.cfg := by
  obtain ⟨-, h⟩ | ⟨-, -, h⟩ | ⟨-, -, h⟩ := s.primaryTrigger_cases data <;> simp [h]

@[simp] theorem State.primaryTrigger_pending : (s.primaryTrigger data).pending = s.pending := by
  obtain ⟨-, h⟩ | ⟨-, -, h⟩ | ⟨-, -, h⟩ := s.primaryTrigger_cases data <;> simp [h]

@[simp] theorem State.primaryTrigger_trace : (s.primaryTrigger data).trace = s.trace ++ primaryEmitted data s := by
  obtain ⟨ht, h⟩ | ⟨ht, hi, h⟩ | ⟨ht, hi, h⟩ := s.primaryTrigger_cases data
  · simp [h, primaryEmitted, ht]
  · simp [h, primaryEmitted, ht, hi]
  · simp [h, primaryEmitted, ht, hi]

/-- The longest event list is a general-purpose trigger's (42_dma R203). -/
theorem length_gpEmitted_le : (gpEmitted c data s).length ≤ 3 := by
  unfold gpEmitted; split <;> simp

theorem length_primaryEmitted_le : (primaryEmitted data s).length ≤ 3 := by
  unfold primaryEmitted; split <;> simp

end transfers

/-- Every operation but an invalid word completes (60_exceptions R230). -/
theorem exec_completes {i : Instr} (h : ∀ w, i ≠ .opwInvalid w) (s : State) : ∃ t, exec i s = .next t := by
  cases i with
  | opwInvalid w => exact absurd rfl (h w)
  | _ => exact ⟨_, rfl⟩

/-- What every operation that completes does, whatever else it does (00_scope R5, R9, R10). -/
structure TakesOneOperation (i : Instr) (s t : State) : Prop where
  cfg : t.cfg = s.cfg
  pending : t.pending = s.pending
  trace : t.trace = s.trace ++ emitted i s
  rv : t.rv.isSome = isRead i

theorem exec_takesOneOperation {i : Instr} {s t : State} (h : exec i s = .next t) : TakesOneOperation i s t := by
  cases i with
  | rtcWrh w data | rtcWrl w data => cases h; split <;> exact ⟨rfl, rfl, by simp [emitted], rfl⟩
  | dma0WrSt data | dma1WrSt data | dma2WrSt data | dma3WrSt data =>
    cases h; exact ⟨by simp, by simp, by simp [emitted], rfl⟩
  | dma0Done => cases h; split <;> rename_i hb <;> exact ⟨rfl, rfl, by simp [emitted, hb], rfl⟩
  | opwInvalid w => cases h
  | _ => cases h; exact ⟨rfl, rfl, by simp [emitted], rfl⟩

/-- The longest operation is the general-purpose trigger (42_dma R203). -/
theorem length_emitted_le (i : Instr) (s : State) : (emitted i s).length ≤ 3 := by
  cases i with
  | dma0WrSt data => exact length_primaryEmitted_le s data
  | dma1WrSt data => exact length_gpEmitted_le s .ch1 data
  | dma2WrSt data => exact length_gpEmitted_le s .ch2 data
  | dma3WrSt data => exact length_gpEmitted_le s .ch3 data
  | dma0Done => cases hb : (s.chan .ch0).busy <;> simp [emitted, hb]
  | _ => simp [emitted]

/-! ### The operation that a step takes -/

/-- An operation offered is the one the next step takes, and the rest of the state is as it was. -/
theorem step_offer (o : Op) (s : State) : step (s.offer o) = exec (decode s.cfg o) s :=
  step_cons rfl

/-- A step that answers next took the first operation offered. -/
theorem step_next {s t : State} (h : step s = .next t) :
    ∃ o rest, s.pending = o :: rest ∧ exec (decode s.cfg o) { s with pending := rest } = .next t := by
  cases hp : s.pending with
  | nil => rw [step_nil hp] at h; cases h
  | cons o rest => exact ⟨o, rest, rfl, step_cons hp ▸ h⟩

/-- The environment delivers no word that spells no operation (00_scope R6, 30_encoding R96(b)). -/
theorem ne_opwInvalid_of_environmentAllows {i : Instr} {s : State} (h : environmentAllows i s = true) (w : Word) :
    i ≠ .opwInvalid w := by
  rintro rfl
  cases h

/-! ### Bus addresses -/

theorem Region.holds_iff (r : Region) (addr : Word) :
    Region.holds r addr = true ↔ r.base ≤ addr.toNat ∧ addr.toNat < r.base + r.size := by
  simp [Region.holds]

section bus
variable {cfg : Config} {addr : Word}

theorem busWord_rtc (h : Region.holds cfg.rtcWindow addr = true) (rw : BitVec 1) (w : Width) :
    busWord cfg rw w addr = some (opwOf 0#2 rw w.code (rtcSel (rtcOffOfAddr cfg addr))) := by
  simp [busWord, h]

theorem busWord_reg (hrtc : ¬ Region.holds cfg.rtcWindow addr = true) (h : Region.holds cfg.regWindow addr = true)
    (rw : BitVec 1) (w : Width) : busWord cfg rw w addr = some (opwOf 1#2 rw w.code (regAddrOfAddr addr)) := by
  simp [busWord, hrtc, h]

theorem busWord_dma (hrtc : ¬ Region.holds cfg.rtcWindow addr = true) (hreg : ¬ Region.holds cfg.regWindow addr = true)
    (h : Region.holds cfg.dmaWindow addr = true) (rw : BitVec 1) (w : Width) :
    busWord cfg rw w addr = some (opwOf 2#2 rw w.code (dmaSelOfAddr cfg addr)) := by
  simp [busWord, hrtc, hreg, h]

theorem busWord_none (hrtc : ¬ Region.holds cfg.rtcWindow addr = true) (hreg : ¬ Region.holds cfg.regWindow addr = true)
    (hdma : ¬ Region.holds cfg.dmaWindow addr = true) (rw : BitVec 1) (w : Width) : busWord cfg rw w addr = none := by
  simp [busWord, hrtc, hreg, hdma]

/-- The selector of a register of a channel is its byte offset in the window (20_memory R63). -/
theorem dmaSel_low_toNat (c : Chan) (r : DmaReg) : (dmaSel c r.low).toNat = 0x20 * Chan.num c + 4 * r.idx := by
  cases c <;> cases r <;> rfl

/-- The address of a DMA register makes that register's selector, wherever the window is (20_memory R63, R70). -/
theorem dmaSelOfAddr_eq {c : Chan} {r : DmaReg}
    (h : addr.toNat = cfg.dmaWindow.base + 0x20 * Chan.num c + 4 * r.idx) :
    dmaSelOfAddr cfg addr = dmaSel c r.low := by
  have hoff : 0x20 * Chan.num c + 4 * r.idx < 0x80 := by cases c <;> cases r <;> decide
  have haddr := addr.isLt
  apply BitVec.eq_of_toNat_eq
  rw [dmaSel_low_toNat]
  simp only [dmaSelOfAddr, BitVec.toNat_setWidth, BitVec.extractLsb'_toNat, BitVec.toNat_sub, Nat.reducePow,
    BitVec.toNat_ofNat, Nat.shiftRight_zero, Nat.reduceDvd, Nat.mod_mod_of_dvd]
  omega

end bus

/-! ### The statements of spec/00_scope.md -/

/-- Settles O8: the step takes the operation offered, and decode of encode is the operation. -/
theorem offeredOperationRuns : Obligations.OfferedOperationRuns := by
  intro s i hwf
  rw [step_offer, decode_encode hwf]

/-- Settles O9: the operation taken is the head of the queue, and `exec_takesOneOperation` says what it does. -/
theorem stepTakesOneOperation : Obligations.StepTakesOneOperation := by
  intro s t hstep
  obtain ⟨o, rest, hp, hexec⟩ := step_next hstep
  have ht := exec_takesOneOperation hexec
  exact ⟨o, rest, _, hp, ht.pending, ht.cfg, ht.trace, length_emitted_le .., ht.rv⟩

/-- Settles O11: what the environment may deliver is no invalid word, and every other operation completes. -/
theorem safeStepCompletes : Obligations.SafeStepCompletes := by
  intro s hsafe
  cases hp : s.pending with
  | nil => simp [safeToStep, hp] at hsafe
  | cons o rest =>
    have hallow : environmentAllows (decode s.cfg o) s = true := by simpa [safeToStep, hp] using hsafe
    rw [step_cons hp]
    exact exec_completes (ne_opwInvalid_of_environmentAllows hallow) _

/-- Settles O55, window by window in their order of priority. -/
theorem busAddressesReachTheRegisters : Obligations.BusAddressesReachTheRegisters := by
  intro cfg w addr d
  simp only [← Region.holds_iff]
  refine ⟨fun hrtc => ?_, fun hrtc hreg => ?_, fun hrtc hreg hdma hw c r haddr => ?_, fun hrtc hreg hdma rw => ?_⟩
  · simp only [busWord_rtc hrtc, rtcOffOfAddr]
    refine ⟨fun h0 => ?_, fun h4 => ?_, fun h8 => ?_, fun h0 h4 h8 => ?_⟩
    · exact ⟨_, _, rfl, rfl, by simp [h0], by simp [h0]⟩
    · exact ⟨_, _, rfl, rfl, by simp [h4], by simp [h4]⟩
    · exact ⟨_, _, rfl, rfl, by simp [h8], by simp [h8]⟩
    · exact ⟨_, _, rfl, rfl, by simp [h0, h4, h8], by simp [h0, h4, h8]⟩
  · simp only [busWord_reg hrtc hreg, Line.op_rdReg, Line.op_wrReg, and_self]
  · subst hw
    simp only [busWord_dma hrtc hreg hdma, dmaSelOfAddr_eq haddr, Line.op_rdDma, Line.op_wrDma, Width.code, and_self]
  · exact busWord_none hrtc hreg hdma rw w

/-- Settles O7: the step's equations for a queue with a head, for an operation offered and for an empty queue. -/
theorem stepRunsTheDecodedOperation : Obligations.StepRunsTheDecodedOperation := by
  refine ⟨fun s o rest hp => step_cons hp, fun s nbits w => step_offer _ s, fun s hp => ?_⟩
  rw [step_nil hp, State.idleRefusal_eq]

end Sys2Proof.Machine

/-! PROOFS. What an operation leaves in each part of the block, each as a function of that part alone (10_state R33), what
it leaves in the environment, and what it returns. -/

namespace Sys2Proof.Machine

/-- The registers that a write of `ST[c]` leaves (42_dma R198, R202, R203); only the primary channel defers. -/
def Channel.triggered (cfg : Config) (c : Chan) (data : Word) (r : Channel) : Channel :=
  if bit0 data && r.enabled then
    if c = .ch0 ∧ inlineTransfer cfg r.count = false then { r with st := 1#32, susp := clearIndicator cfg r.susp }
    else r.completed cfg c
  else r

/-- The registers that an operation of a channel leaves in that channel. -/
def ownAfter (cfg : Config) (i : Instr) (r : Channel) : Channel :=
  match i with
  | .dmaWrDst _ data => { r with dst := data }
  | .dmaWrSrc _ data => { r with src := data }
  | .dmaWrLen _ data => { r with len := data }
  | .dmaWrDir _ data => { r with dir := data }
  | .dmaWrEn _ data => { r with en := data }
  | .dmaWrSusp _ data => { r with susp := data }
  | .dma0WrSt data => r.triggered cfg .ch0 data
  | .dma1WrSt data => r.triggered cfg .ch1 data
  | .dma2WrSt data => r.triggered cfg .ch2 data
  | .dma3WrSt data => r.triggered cfg .ch3 data
  | .dma0Done => if r.busy then r.completed cfg .ch0 else r
  | _ => r

theorem ownAfter_dma0Done (cfg : Config) (r : Channel) :
    ownAfter cfg .dma0Done r = if r.busy then r.completed cfg .ch0 else r := rfl

/-- The registers that an operation leaves in channel `c`. -/
def chanAfter (cfg : Config) (i : Instr) (c : Chan) (r : Channel) : Channel :=
  match i with
  | .reset _ => zeroChannel
  | _ => if channelOf i = some c then ownAfter cfg i r else r

/-- The counter and its latch after an operation (40_rtc R124, R125, R126, R128). -/
def rtcAfter (i : Instr) (rtc : Word) (rtcEn : Bool) : Word × Bool :=
  match i with
  | .rtcWrh _ data => if rtcEn then (rtcOf (dataHalf data) (rtcLow rtc), false) else (rtc, rtcEn)
  | .rtcWrl _ data => if rtcEn then (rtcOf (rtcHigh rtc) (dataHalf data), rtcEn) else (rtc, rtcEn)
  | .rtcWren _ data => (rtc, bit0 data)
  | .rtcTick => (rtc + 1#32, rtcEn)
  | .reset seed => (seed, false)
  | _ => (rtc, rtcEn)

/-- ARMRST and VREG after an operation (41_reset_latch_decoder R152, R154, R156). -/
def latchAfter (i : Instr) (armrst vreg : Byte) : Byte × Byte :=
  match i with
  | .regWr8Rst data => (dataLowByte data, vreg)
  | .regWr8Vreg data => (armrst, dataLowByte data)
  | .regWr16Pair data => (dataLowByte data, dataHighByte data)
  | .reset _ => (0#8, 0#8)
  | _ => (armrst, vreg)

/-- The environment once what an operation consumes is taken: the delivered request (10_state R35) or the external
register file's answer (20_memory R76). -/
def envTaken (i : Instr) (env : Env) : Env :=
  match i with
  | .rtcTick => { env with armRtc := env.armRtc.tail }
  | .dma0Done => { env with armDma0 := env.armDma0.tail }
  | .regRdPass _ _ => env.afterAnswer
  | _ => env

/-- The environment once the events of a list have been emitted, oldest first (00_scope R9). -/
def envAfter (cfg : Config) (ev : List Event) (env : Env) : Env := ev.foldl (fun env e => env.react cfg e) env

/-- The read result of an operation (00_scope R10); none for an operation that is no read. -/
def returned (i : Instr) (s : State) : Option Word :=
  match i with
  | .rtcRdh _ => some (zextHalf (rtcHigh s.blk.rtc))
  | .rtcRdl _ => some (zextHalf (rtcLow s.blk.rtc))
  | .rtcRden _ | .rtcRdinv _ _ | .regRdBadw _ | .dmaRdRsvd _ _ | .dmaRdBadw _ _ _ => some 0#32
  | .regRd8Rst => some (zextByte s.blk.armrst)
  | .regRd8Vreg => some (zextByte s.blk.vreg)
  | .regRd16Pair => some (zextHalf (pairOf s.blk.vreg s.blk.armrst))
  | .regRdPass w _ => some (RegVal.ofHalf w s.env.nextAnswer).zext
  | .dmaRdDst c => some (s.chan c).dst
  | .dmaRdSrc c => some (s.chan c).src
  | .dmaRdLen c => some (s.chan c).len
  | .dmaRdDir c => some (s.chan c).dir
  | .dmaRdEn c => some (s.chan c).en
  | .dmaRdSt c => some (s.chan c).st
  | .dmaRdSusp c => some (s.chan c).susp
  | _ => none

/-! ### The transfers -/

@[simp] theorem State.blk_setChan_chan (s : State) (c : Chan) : s.blk.setChan c (s.chan c) = s.blk := by
  cases c <;> rfl

section transfers
variable (s : State) (c : Chan) (data : Word)

theorem State.gpTrigger_blk (hc : c ≠ .ch0) :
    (s.gpTrigger c data).blk = s.blk.setChan c ((s.chan c).triggered s.cfg c data) := by
  obtain ⟨ht, h⟩ | ⟨ht, h⟩ := s.gpTrigger_cases c data <;> rw [State.triggers] at ht
  · simp [h, Channel.triggered, ht]
  · simp [h, Channel.triggered, ht, hc]

theorem State.primaryTrigger_blk :
    (s.primaryTrigger data).blk = s.blk.setChan .ch0 ((s.chan .ch0).triggered s.cfg .ch0 data) := by
  obtain ⟨ht, h⟩ | ⟨ht, hi, h⟩ | ⟨ht, hi, h⟩ := s.primaryTrigger_cases data <;> rw [State.triggers] at ht
  · simp [h, Channel.triggered, ht]
  · simp [h, Channel.triggered, ht, hi]
  · simp [h, Channel.triggered, ht, hi]

theorem State.gpTrigger_env : (s.gpTrigger c data).env = envAfter s.cfg (gpEmitted c data s) s.env := by
  obtain ⟨ht, h⟩ | ⟨ht, h⟩ := s.gpTrigger_cases c data <;> simp [h, envAfter, gpEmitted, ht]

theorem State.primaryTrigger_env :
    (s.primaryTrigger data).env = envAfter s.cfg (primaryEmitted data s) s.env := by
  obtain ⟨ht, h⟩ | ⟨ht, hi, h⟩ | ⟨ht, hi, h⟩ := s.primaryTrigger_cases data
  · simp [h, envAfter, primaryEmitted, ht]
  · simp [h, envAfter, primaryEmitted, ht, hi]
  · simp [h, envAfter, primaryEmitted, ht, hi]

end transfers

/-! ### The parts, for every operation -/

/-- An operation of a channel replaces that channel's registers and touches no other part of the block (10_state R33). -/
theorem exec_blk_of_channelOf {i : Instr} {s t : State} {c : Chan} (h : exec i s = .next t)
    (hc : channelOf i = some c) : t.blk = s.blk.setChan c (ownAfter s.cfg i (s.chan c)) := by
  cases i with
  | dma0WrSt data => cases h; cases hc; exact s.primaryTrigger_blk data
  | dma1WrSt data | dma2WrSt data | dma3WrSt data => cases h; cases hc; exact s.gpTrigger_blk _ data (by decide)
  | dma0Done =>
    cases hc
    change execDma0Done s = .next t at h
    rw [ownAfter_dma0Done]
    split <;> rename_i hb
    · rw [execDma0Done_busy s hb] at h; cases h; rfl
    · rw [execDma0Done_idle s (Bool.eq_false_iff.2 hb)] at h; cases h; exact (s.blk_setChan_chan .ch0).symm
  | dmaRdDst c | dmaRdSrc c | dmaRdLen c | dmaRdDir c | dmaRdEn c | dmaRdSt c | dmaRdSusp c =>
    cases h; cases hc; exact (s.blk_setChan_chan c).symm
  | dmaRdRsvd c low | dmaWrRsvd c low data | dmaRdBadw w c low | dmaWrBadw w c low data =>
    cases h; cases hc; exact (s.blk_setChan_chan c).symm
  | dmaWrDst c data | dmaWrSrc c data | dmaWrLen c data | dmaWrDir c data | dmaWrEn c data | dmaWrSusp c data =>
    cases h; cases hc; rfl
  | _ => cases hc

/-- What an operation that completes leaves, part by part. -/
structure LeavesParts (i : Instr) (s t : State) : Prop where
  chan : ∀ c, t.chan c = chanAfter s.cfg i c (s.chan c)
  rtc : (t.blk.rtc, t.blk.rtcEn) = rtcAfter i s.blk.rtc s.blk.rtcEn
  latch : (t.blk.armrst, t.blk.vreg) = latchAfter i s.blk.armrst s.blk.vreg

/-- The operations of the DMA part are those of a channel (10_state R33). -/
theorem partOf_eq_dma_iff (i : Instr) : partOf i = some .dma ↔ ∃ c, channelOf i = some c := by
  cases i <;> simp [partOf, channelOf]

theorem chanAfter_of_channelOf {i : Instr} {c : Chan} (h : channelOf i = some c) (cfg : Config) (c' : Chan)
    (r : Channel) : chanAfter cfg i c' r = if c' = c then ownAfter cfg i r else r := by
  cases i with
  | reset seed => cases h
  | _ => simp only [chanAfter, h, Option.some.injEq, eq_comm]

/-- Only an operation of the channel, and RESET, writes a channel (10_state R33). -/
theorem chanAfter_of_other {i : Instr} {c : Chan} (hc : channelOf i ≠ some c) (hr : ∀ seed, i ≠ .reset seed)
    (cfg : Config) (r : Channel) : chanAfter cfg i c r = r := by
  cases i with
  | reset seed => exact absurd rfl (hr seed)
  | _ => simp only [chanAfter, if_neg hc]

theorem chanAfter_of_partOf {i : Instr} {p : Part} (h : partOf i = some p) (hp : p ≠ .dma) (cfg : Config) (c : Chan)
    (r : Channel) : chanAfter cfg i c r = r := by
  refine chanAfter_of_other (fun hc => hp ?_) (fun seed hr => ?_) cfg r
  · exact Option.some.inj (h ▸ (partOf_eq_dma_iff i).2 ⟨c, hc⟩)
  · subst hr; cases h

/-- Only an RTC operation, and RESET, writes the counter and its latch. -/
theorem rtcAfter_of_partOf {i : Instr} {p : Part} (h : partOf i = some p) (hp : p ≠ .rtc) (rtc : Word) (rtcEn : Bool) :
    rtcAfter i rtc rtcEn = (rtc, rtcEn) := by
  cases i with
  | rtcWrh w data | rtcWrl w data | rtcWren w data => cases h; exact absurd rfl hp
  | rtcTick => cases h; exact absurd rfl hp
  | reset seed => cases h
  | _ => rfl

/-- Only a REG operation, and RESET, writes the pair. -/
theorem latchAfter_of_partOf {i : Instr} {p : Part} (h : partOf i = some p) (hp : p ≠ .latch) (armrst vreg : Byte) :
    latchAfter i armrst vreg = (armrst, vreg) := by
  cases i with
  | regWr8Rst data | regWr8Vreg data | regWr16Pair data => cases h; exact absurd rfl hp
  | reset seed => cases h
  | _ => rfl

theorem exec_leavesParts {i : Instr} {s t : State} (h : exec i s = .next t) : LeavesParts i s t := by
  cases hc : channelOf i with
  | some c =>
    have hb := exec_blk_of_channelOf h hc
    have hp := (partOf_eq_dma_iff i).2 ⟨c, hc⟩
    refine ⟨fun c' => ?_, ?_, ?_⟩
    · rw [chanAfter_of_channelOf hc, State.chan, hb, Block.chan_setChan]
      split
      · rename_i hcc; subst hcc; rfl
      · rfl
    · rw [rtcAfter_of_partOf hp (by decide), hb, Block.setChan_rtc, Block.setChan_rtcEn]
    · rw [latchAfter_of_partOf hp (by decide), hb, Block.setChan_armrst, Block.setChan_vreg]
  | none =>
    cases i with
    | rtcWrh w data | rtcWrl w data =>
      cases h
      cases hen : s.blk.rtcEn <;> exact ⟨fun _ => rfl, by simp [rtcAfter, hen], rfl⟩
    | reset seed => cases h; exact ⟨fun c => by cases c <;> rfl, rfl, rfl⟩
    | opwInvalid w => cases h
    | _ => cases hc <;> cases h <;> exact ⟨fun _ => rfl, rfl, rfl⟩

/-- The environment changes only by what the operation takes and by its events (00_scope R9). -/
theorem exec_env {i : Instr} {s t : State} (h : exec i s = .next t) :
    t.env = envAfter s.cfg (emitted i s) (envTaken i s.env) := by
  cases i with
  | rtcWrh w data | rtcWrl w data => cases h; cases s.blk.rtcEn <;> rfl
  | dma0WrSt data => cases h; exact s.primaryTrigger_env data
  | dma1WrSt data | dma2WrSt data | dma3WrSt data => cases h; exact s.gpTrigger_env _ data
  | dma0Done => cases h; cases hb : (s.chan .ch0).busy <;> simp [envAfter, emitted, envTaken, hb]
  | opwInvalid w => cases h
  | _ => cases h; rfl

theorem exec_rv {i : Instr} {s t : State} (h : exec i s = .next t) : t.rv = returned i s := by
  cases i with
  | rtcWrh w data | rtcWrl w data => cases h; cases s.blk.rtcEn <;> rfl
  | opwInvalid w => cases h
  | _ => cases h; rfl

end Sys2Proof.Machine

/-! PROOFS. The armed requests (10_state R35) and the invariant (R37, R38). -/

namespace Sys2Proof.Machine

/-! ### The armed requests -/

/-- The duration of a transfer as 42_dma R201 writes it. -/
theorem cycles_count (cfg : Config) (r : Channel) :
    cycles cfg r.count = (r.len &&& 0x7FFFFFFF#32).toNat * (cfg.clock / 2 / 25000000) := by
  rw [Channel.count_eq]; rfl

theorem armed_iff (cfg : Config) (arm new : List Nat) (delta : Nat) : new = armed cfg arm delta ↔
    (cfg.schedRearm = .replace ∧ new = [delta]) ∨ (cfg.schedRearm = .queue ∧ new = arm ++ [delta]) := by
  cases h : cfg.schedRearm <;> simp [armed, h]

/-- The operations that request a callback on H_DMA0: a trigger of channel 0 that defers (42_dma R202). -/
def defers (i : Instr) (s : State) : Prop :=
  ∃ data, i = .dma0WrSt data ∧ s.triggers .ch0 data = true ∧ inlineTransfer s.cfg (s.chan .ch0).count = false

theorem defers_iff (i : Instr) (s : State) : defers i s ↔
    ∃ data, i = .dma0WrSt data ∧ data.getLsbD 0 = true ∧ (s.chan .ch0).en.getLsbD 0 = true ∧
      4096 ≤ ((s.chan .ch0).len &&& 0x7FFFFFFF#32).toNat * (s.cfg.clock / 2 / 25000000) := by
  simp [defers, State.triggers, bit0, Channel.enabled, inlineTransfer, cycles_count, tInline, and_assoc]

theorem not_defers_dma0Done (s : State) : ¬ defers .dma0Done s := by rintro ⟨_, hi, _⟩; cases hi

/-- A property that no event of a list can break survives them all. -/
theorem envAfter_keeps {P : Env → Prop} {cfg : Config} {ev : List Event}
    (hP : ∀ e ∈ ev, ∀ env, P env → P (env.react cfg e)) {env : Env} (h : P env) : P (envAfter cfg ev env) := by
  induction ev generalizing env with
  | nil => exact h
  | cons e ev ih =>
    exact ih (fun e he => hP e (List.mem_cons_of_mem _ he)) (hP e (List.mem_cons_self ..) env h)

theorem Env.react_armDma0 {e : Event} (he : ∀ delta, e ≠ .schedRequest .dma0 delta) (cfg : Config) (env : Env) :
    (env.react cfg e).armDma0 = env.armDma0 := by
  cases e with
  | schedRequest h delta => cases h with
    | rtc => rfl
    | dma0 => exact absurd rfl (he delta)
  | _ => rfl

theorem Env.react_armRtc {e : Event} (he : ∀ delta, e ≠ .schedRequest .rtc delta) (cfg : Config) (env : Env) :
    (env.react cfg e).armRtc = env.armRtc := by
  cases e with
  | schedRequest h delta => cases h with
    | rtc => exact absurd rfl (he delta)
    | dma0 => rfl
  | _ => rfl

theorem envTaken_armDma0 {i : Instr} (hi : i ≠ .dma0Done) (env : Env) : (envTaken i env).armDma0 = env.armDma0 := by
  cases i with
  | dma0Done => exact absurd rfl hi
  | regRdPass w a => simp only [envTaken, Env.afterAnswer]; split <;> rfl
  | _ => rfl

theorem envTaken_armRtc {i : Instr} (hi : i ≠ .rtcTick) (env : Env) : (envTaken i env).armRtc = env.armRtc := by
  cases i with
  | rtcTick => exact absurd rfl hi
  | regRdPass w a => simp only [envTaken, Env.afterAnswer]; split <;> rfl
  | _ => rfl

theorem envTaken_mem (i : Instr) (env : Env) : (envTaken i env).mem = env.mem := by
  cases i with
  | regRdPass w a => simp only [envTaken, Env.afterAnswer]; split <;> rfl
  | _ => rfl

/-- The scheduler is asked for a callback by the tick, on H_RTC, and by a deferring trigger, on H_DMA0 (10_state R35). -/
theorem schedRequest_mem_emitted {i : Instr} {s : State} {hd : Handle} {delta : Nat}
    (h : .schedRequest hd delta ∈ emitted i s) : (hd = .rtc ∧ i = .rtcTick) ∨ (hd = .dma0 ∧ defers i s) := by
  cases i with
  | rtcTick => simp only [emitted, List.mem_singleton, Event.schedRequest.injEq] at h; exact .inl ⟨h.1, rfl⟩
  | dma0WrSt data =>
    simp only [emitted, primaryEmitted] at h
    split at h
    · rename_i ht
      cases hi : inlineTransfer s.cfg (s.chan .ch0).count <;> simp [hi] at h
      exact .inr ⟨h.1, data, rfl, ht, hi⟩
    · simp at h
  | dma1WrSt data | dma2WrSt data | dma3WrSt data =>
    simp only [emitted, gpEmitted] at h
    split at h <;> simp at h
  | dma0Done => cases hb : (s.chan .ch0).busy <;> simp [emitted, hb] at h
  | _ => simp [emitted] at h

section requests
variable {i : Instr} {s t : State} (h : exec i s = .next t)
include h

theorem exec_armDma0_of_defers (hd : defers i s) :
    t.env.armDma0 = armed s.cfg s.env.armDma0 (cycles s.cfg (s.chan .ch0).count) := by
  obtain ⟨data, rfl, ht, hi⟩ := hd
  rw [exec_env h]
  simp [emitted, primaryEmitted, ht, hi, envAfter, envTaken]

/-- Nothing but a deferring trigger asks for a callback on H_DMA0, so only what the operation took is gone. -/
theorem exec_armDma0_of_not_defers (hd : ¬ defers i s) : t.env.armDma0 = (envTaken i s.env).armDma0 := by
  rw [exec_env h]
  refine envAfter_keeps (P := fun env => env.armDma0 = (envTaken i s.env).armDma0) (fun e he env henv => ?_) rfl
  rw [Env.react_armDma0 _, henv]
  rintro delta rfl
  obtain ⟨hh, -⟩ | ⟨-, hdef⟩ := schedRequest_mem_emitted he
  · cases hh
  · exact hd hdef

theorem exec_armRtc_of_tick (hi : i = .rtcTick) :
    t.env.armRtc = armed s.cfg s.env.armRtc.tail (rtcTickDelta s.cfg) := by
  subst hi
  rw [exec_env h]
  rfl

theorem exec_armRtc_of_ne_tick (hi : i ≠ .rtcTick) : t.env.armRtc = s.env.armRtc := by
  rw [exec_env h]
  refine envAfter_keeps (P := fun env => env.armRtc = s.env.armRtc) (fun e he env henv => ?_) (envTaken_armRtc hi _)
  rw [Env.react_armRtc _, henv]
  rintro delta rfl
  obtain ⟨-, htick⟩ | ⟨hh, -⟩ := schedRequest_mem_emitted he
  · exact hi htick
  · cases hh

end requests

/-- Settles O48: H_DMA0's requests by the completion, by a deferring trigger and by any other operation; H_RTC's by the
tick and by any other operation. -/
theorem armedRequestsAreNeverCancelled : Obligations.ArmedRequestsAreNeverCancelled := by
  intro i s t h
  simp only [← armed_iff, ← cycles_count]
  constructor
  · by_cases hdone : i = .dma0Done
    · subst hdone
      exact .inl ⟨rfl, exec_armDma0_of_not_defers h (not_defers_dma0Done s)⟩
    · by_cases hd : defers i s
      · obtain ⟨data, hi, hbit, hen, hlong⟩ := (defers_iff i s).1 hd
        exact .inr (.inl ⟨data, hi, hbit, hen, cycles_count .. ▸ hlong, exec_armDma0_of_defers h hd⟩)
      · refine .inr (.inr ⟨hdone, ?_, ?_⟩)
        · rwa [cycles_count, ← defers_iff]
        · rw [exec_armDma0_of_not_defers h hd, envTaken_armDma0 hdone]
  · split
    · rename_i htick; exact exec_armRtc_of_tick h htick
    · rename_i htick; exact exec_armRtc_of_ne_tick h htick

/-! ### The invariant -/

/-- Settles O12: the reset state's fields as 10_state R37 and 70_reset_and_hazards R261 give them. -/
theorem resetStateHoldsTheSpecsValues : Obligations.ResetStateHoldsTheSpecsValues :=
  ⟨rfl, rfl, rfl, fun c => by cases c <;> rfl, rfl, rfl⟩

/-- Settles O14: no channel is busy, the tick is armed and no byte is listed. -/
theorem resetStateMeetsTheInvariant : Obligations.ResetStateMeetsTheInvariant where
  gpIdle c _ := by cases c <;> rfl
  st0Bit := .inl rfl
  busyIsArmed _ := rfl
  tickArmed := List.cons_ne_nil _ _
  memWf := ⟨List.Pairwise.nil, fun x hx => absurd hx List.not_mem_nil⟩

theorem Channel.triggered_st_cases (cfg : Config) (c : Chan) (data : Word) (r : Channel) :
    (r.triggered cfg c data).st = r.st ∨ (r.triggered cfg c data).st = 0#32 ∨
      (c = .ch0 ∧ (bit0 data && r.enabled) = true ∧ inlineTransfer cfg r.count = false ∧
        (r.triggered cfg c data).st = 1#32) := by
  unfold Channel.triggered
  split
  · rename_i ht
    split
    · rename_i hlong; exact .inr (.inr ⟨hlong.1, ht, hlong.2, rfl⟩)
    · exact .inr (.inl rfl)
  · exact .inl rfl

/-- What an operation leaves in a status register (10_state R31): its value, 0, or 1 where channel 0 defers. -/
theorem chanAfter_st_cases (i : Instr) (s : State) (c : Chan) :
    (chanAfter s.cfg i c (s.chan c)).st = (s.chan c).st ∨ (chanAfter s.cfg i c (s.chan c)).st = 0#32 ∨
      (c = .ch0 ∧ defers i s ∧ (chanAfter s.cfg i c (s.chan c)).st = 1#32) := by
  by_cases hc : channelOf i = some c
  · rw [chanAfter_of_channelOf hc, if_pos rfl]
    cases i with
    | dma0WrSt data =>
      cases hc
      obtain hst | hst | ⟨-, ht, hi, hst⟩ := Channel.triggered_st_cases s.cfg .ch0 data (s.chan .ch0)
      · exact .inl hst
      · exact .inr (.inl hst)
      · exact .inr (.inr ⟨rfl, ⟨data, rfl, ht, hi⟩, hst⟩)
    | dma1WrSt data | dma2WrSt data | dma3WrSt data =>
      cases hc
      obtain hst | hst | ⟨h0, -⟩ := Channel.triggered_st_cases s.cfg _ data (s.chan _)
      · exact .inl hst
      · exact .inr (.inl hst)
      · cases h0
    | dma0Done =>
      rw [ownAfter_dma0Done]
      split
      · exact .inr (.inl rfl)
      · exact .inl rfl
    | _ => exact .inl rfl
  · cases i with
    | reset seed => exact .inr (.inl rfl)
    | _ => rw [chanAfter_of_other hc (by simp)]; exact .inl rfl

/-- A completion leaves channel 0 idle: it settles a busy channel, and under the invariant one that is not has status 0. -/
theorem Inv.chan0_st_of_done {s t : State} (hs : Inv s) (h : exec .dma0Done s = .next t) :
    (t.chan .ch0).st = 0#32 := by
  rw [(exec_leavesParts h).chan, chanAfter_of_channelOf rfl, if_pos rfl, ownAfter_dma0Done]
  split
  · rfl
  · rename_i hidle
    obtain hst | hst := hs.st0Bit
    · exact hst
    · exact absurd (by rw [Channel.busy, hst]; rfl) hidle

theorem Env.react_memWf {env : Env} (h : env.mem.wf) (cfg : Config) (e : Event) : (env.react cfg e).mem.wf := by
  cases e with
  | move dst src len => exact Memory.move_wf h ..
  | schedRequest hd delta => cases hd <;> exact h
  | _ => exact h

theorem exec_memWf {i : Instr} {s t : State} (hs : s.env.mem.wf) (h : exec i s = .next t) : t.env.mem.wf := by
  rw [exec_env h]
  exact envAfter_keeps (P := fun env => env.mem.wf) (fun e _ _ henv => Env.react_memWf henv s.cfg e)
    (envTaken_mem i s.env ▸ hs)

/-- Every operation keeps the invariant (10_state R38, R35(c)). -/
theorem exec_keeps_inv {i : Instr} {s t : State} (hs : Inv s) (h : exec i s = .next t) : Inv t where
  gpIdle c hc := by
    rw [(exec_leavesParts h).chan]
    obtain hst | hst | ⟨h0, -⟩ := chanAfter_st_cases i s c
    · rw [hst, hs.gpIdle c hc]
    · exact hst
    · exact absurd h0 hc
  st0Bit := by
    rw [(exec_leavesParts h).chan]
    obtain hst | hst | ⟨-, -, hst⟩ := chanAfter_st_cases i s .ch0
    · rw [hst]; exact hs.st0Bit
    · exact .inl hst
    · exact .inr hst
  busyIsArmed harm := by
    by_cases hd : defers i s
    · rw [exec_armDma0_of_defers h hd] at harm
      exact absurd harm (armed_ne_nil _ _ _)
    · by_cases hdone : i = .dma0Done
      · subst hdone; exact hs.chan0_st_of_done h
      · rw [exec_armDma0_of_not_defers h hd, envTaken_armDma0 hdone] at harm
        rw [(exec_leavesParts h).chan]
        obtain hst | hst | ⟨-, hd', -⟩ := chanAfter_st_cases i s .ch0
        · rw [hst, hs.busyIsArmed harm]
        · exact hst
        · exact absurd hd' hd
  tickArmed := by
    by_cases htick : i = .rtcTick
    · rw [exec_armRtc_of_tick h htick]; exact armed_ne_nil _ _ _
    · rw [exec_armRtc_of_ne_tick h htick]; exact hs.tickArmed
  memWf := exec_memWf hs.memWf h

/-- The invariant says nothing of the operations offered. -/
theorem Inv.of_pending {s : State} (hs : Inv s) (ops : List Op) : Inv { s with pending := ops } :=
  ⟨hs.gpIdle, hs.st0Bit, hs.busyIsArmed, hs.tickArmed, hs.memWf⟩

/-- Settles O15: a step executes one operation from the state without it, and every operation keeps the invariant. -/
theorem stepKeepsTheInvariant : Obligations.StepKeepsTheInvariant := by
  intro s t hs hstep
  obtain ⟨o, rest, -, hexec⟩ := step_next hstep
  exact exec_keeps_inv (hs.of_pending rest) hexec

end Sys2Proof.Machine

/-! PROOFS. The independence of the parts (10_state R33) and the end of a run (R35(d)). -/

namespace Sys2Proof.Machine

/-! ### What an operation reads -/

section reads
variable {i : Instr} {s s' : State}

/-- What two executions of one operation show alike: the read result and the events. -/
theorem alike_of_observed {t t' : State} (ht : exec i s = .next t) (ht' : exec i s' = .next t')
    (h : returned i s = returned i s' ∧ emitted i s = emitted i s') :
    t.rv = t'.rv ∧ ∃ ev, t.trace = s.trace ++ ev ∧ t'.trace = s'.trace ++ ev := by
  obtain ⟨hrv, hev⟩ := h
  exact ⟨by rw [exec_rv ht, exec_rv ht', hrv],
    _, (exec_takesOneOperation ht).trace, hev ▸ (exec_takesOneOperation ht').trace⟩

/-- The environment follows the events, from one environment to one environment. -/
theorem env_of_observed {t t' : State} (ht : exec i s = .next t) (ht' : exec i s' = .next t') (hcfg : s.cfg = s'.cfg)
    (hev : emitted i s = emitted i s') (henv : s.env = s'.env) : t.env = t'.env := by
  rw [exec_env ht, exec_env ht', hcfg, hev, henv]

theorem gpEmitted_congr {c : Chan} (data : Word) (hs : s.chan c = s'.chan c) :
    gpEmitted c data s = gpEmitted c data s' := by
  rw [gpEmitted, gpEmitted, State.triggers, State.triggers, hs]

theorem primaryEmitted_congr (data : Word) (hcfg : s.cfg = s'.cfg) (hs : s.chan .ch0 = s'.chan .ch0) :
    primaryEmitted data s = primaryEmitted data s' := by
  rw [primaryEmitted, primaryEmitted, State.triggers, State.triggers, hs, hcfg]

theorem observed_of_channelOf {c : Chan} (hc : channelOf i = some c) (hcfg : s.cfg = s'.cfg)
    (hs : s.chan c = s'.chan c) : returned i s = returned i s' ∧ emitted i s = emitted i s' := by
  cases i with
  | dmaRdDst c | dmaRdSrc c | dmaRdLen c | dmaRdDir c | dmaRdEn c | dmaRdSt c | dmaRdSusp c =>
    cases hc; exact ⟨by change some _ = some _; rw [hs], rfl⟩
  | dma0WrSt data => cases hc; exact ⟨rfl, primaryEmitted_congr data hcfg hs⟩
  | dma1WrSt data | dma2WrSt data | dma3WrSt data => cases hc; exact ⟨rfl, gpEmitted_congr data hs⟩
  | dma0Done => cases hc; exact ⟨rfl, by rw [emitted, emitted, hs]⟩
  | _ => cases hc <;> exact ⟨rfl, rfl⟩

theorem observed_of_rtc (hp : partOf i = some .rtc) (hcfg : s.cfg = s'.cfg) (hs : s.blk.rtc = s'.blk.rtc) :
    returned i s = returned i s' ∧ emitted i s = emitted i s' := by
  cases i with
  | rtcRdh w | rtcRdl w => exact ⟨by change some _ = some _; rw [hs], rfl⟩
  | rtcTick => exact ⟨rfl, by rw [emitted, emitted, hcfg]⟩
  | _ => cases hp <;> exact ⟨rfl, rfl⟩

theorem observed_of_latch (hp : partOf i = some .latch) (harm : s.blk.armrst = s'.blk.armrst)
    (hvreg : s.blk.vreg = s'.blk.vreg) (henv : s.env = s'.env) :
    returned i s = returned i s' ∧ emitted i s = emitted i s' := by
  cases i with
  | regRd8Rst => exact ⟨by change some _ = some _; rw [harm], rfl⟩
  | regRd8Vreg => exact ⟨by change some _ = some _; rw [hvreg], rfl⟩
  | regRd16Pair => exact ⟨by change some _ = some _; rw [harm, hvreg], rfl⟩
  | regRdPass w a => exact ⟨by change some _ = some _; rw [henv], by rw [emitted, emitted, henv]⟩
  | _ => cases hp <;> exact ⟨rfl, rfl⟩

/-- RESET and a word that is no access return nothing, emit nothing and consume nothing. -/
theorem observed_of_no_part (hp : partOf i = none) :
    returned i s = none ∧ emitted i s = [] ∧ envTaken i s.env = s.env := by
  cases i with
  | reset seed | opwInvalid w => exact ⟨rfl, rfl, rfl⟩
  | _ => cases hp

end reads

/-- Settles O50: what each part is left with is a function of that part (`exec_leavesParts`), what is shown a function of
the operation's own part (`observed_of_…`), and a part that is not the operation's own is left as it was. -/
theorem partsAreIndependent : Obligations.PartsAreIndependent := by
  intro i s s' t t' hcfg ht ht'
  have hl := exec_leavesParts ht
  have hl' := exec_leavesParts ht'
  have rtcKept {p : Part} (hp : partOf i = some p) (hne : p ≠ .rtc) : t.blk.rtc = s.blk.rtc ∧ t.blk.rtcEn = s.blk.rtcEn :=
    Prod.ext_iff.1 (hl.rtc.trans (rtcAfter_of_partOf hp hne ..))
  have latchKept {p : Part} (hp : partOf i = some p) (hne : p ≠ .latch) :
      t.blk.armrst = s.blk.armrst ∧ t.blk.vreg = s.blk.vreg :=
    Prod.ext_iff.1 (hl.latch.trans (latchAfter_of_partOf hp hne ..))
  have chanKept {p : Part} (hp : partOf i = some p) (hne : p ≠ .dma) (c : Chan) : t.chan c = s.chan c :=
    (hl.chan c).trans (chanAfter_of_partOf hp hne ..)
  refine ⟨fun c hc => ?_, fun hrtc hen => ?_, fun harm hvreg => ?_, fun c hc hs => ?_, fun hp hrtc => ?_,
    fun hp harm hvreg henv => ?_, fun hp => ?_, fun c => ?_, fun c hc => ?_, fun hp => ?_, fun hp => ?_,
    partOf_eq_dma_iff i⟩
  · rw [hl.chan, hl'.chan, hcfg, hc]
  · exact Prod.ext_iff.1 (hl.rtc.trans (by rw [hrtc, hen, ← hl'.rtc]))
  · exact Prod.ext_iff.1 (hl.latch.trans (by rw [harm, hvreg, ← hl'.latch]))
  · have hobs := observed_of_channelOf hc hcfg hs
    exact ⟨alike_of_observed ht ht' hobs, env_of_observed ht ht' hcfg hobs.2⟩
  · have hobs := observed_of_rtc hp hcfg hrtc
    exact ⟨alike_of_observed ht ht' hobs, env_of_observed ht ht' hcfg hobs.2⟩
  · have hobs := observed_of_latch hp harm hvreg henv
    exact ⟨alike_of_observed ht ht' hobs, env_of_observed ht ht' hcfg hobs.2 henv⟩
  · obtain ⟨hrv, hev, henv⟩ := observed_of_no_part (s := s) hp
    obtain ⟨hrv', hev', -⟩ := observed_of_no_part (s := s') hp
    refine ⟨alike_of_observed ht ht' ⟨hrv.trans hrv'.symm, hev.trans hev'.symm⟩, ?_⟩
    rw [exec_env ht, hev, henv]; rfl
  · by_cases hr : ∃ seed, i = .reset seed
    · exact .inr (.inr hr)
    · by_cases hc : channelOf i = some c
      · exact .inr (.inl hc)
      · exact .inl ((hl.chan c).trans (chanAfter_of_other hc (fun seed h => hr ⟨seed, h⟩) ..))
  · have hp := (partOf_eq_dma_iff i).2 ⟨c, hc⟩
    obtain ⟨hrtc, hen⟩ := rtcKept hp (by decide)
    exact ⟨hrtc, hen, latchKept hp (by decide)⟩
  · obtain ⟨harm, hvreg⟩ := latchKept hp (by decide)
    exact ⟨harm, hvreg, chanKept hp (by decide)⟩
  · obtain ⟨hrtc, hen⟩ := rtcKept hp (by decide)
    exact ⟨hrtc, hen, chanKept hp (by decide)⟩

/-! ### The end of a run -/

/-- A step is refused for want of an operation exactly when none is offered: an operation is refused only as an invalid
word. -/
theorem step_eq_refused_iff {s : State} {r : Refusal} (hr : ∀ w, r ≠ .invalidOperationWord w) :
    step s = .refused r ↔ s.pending = [] ∧ s.idleRefusal = r := by
  cases hp : s.pending with
  | nil => simp [step_nil hp]
  | cons o rest =>
    rw [step_cons hp]
    refine ⟨fun h => ?_, fun h => by cases h.1⟩
    obtain ⟨w, -, hw⟩ := exec_refused h
    exact absurd hw (hr w)

theorem decode_done (cfg : Config) : decode cfg ⟨0xC0000002#32, 0#32⟩ = .dma0Done :=
  decode_encode (i := .dma0Done) rfl

/-- As many completions as there are requests outstanding end the run, with channel 0 idle. -/
theorem run_completions (k : Nat) {s : State} (hs : Inv s)
    (hp : s.pending = List.replicate k ⟨0xC0000002#32, 0#32⟩) (hk : s.env.armDma0.length = k) :
    ∃ t, Host.Core.run Sys2Proof.core k s = .next t ∧ t.runOver = true ∧ (t.chan .ch0).st = 0#32 := by
  induction k generalizing s with
  | zero =>
    have harm := List.eq_nil_of_length_eq_zero hk
    exact ⟨s, rfl, s.runOver_iff.2 ⟨hp, harm⟩, hs.busyIsArmed harm⟩
  | succ k ih =>
    obtain ⟨t, ht⟩ := exec_completes (i := .dma0Done) (by simp) { s with pending := List.replicate k _ }
    rw [run_succ hp (decode_done s.cfg ▸ ht)]
    refine ih (exec_keeps_inv (hs.of_pending _) ht) (exec_takesOneOperation ht).pending ?_
    rw [exec_armDma0_of_not_defers ht (not_defers_dma0Done _)]
    simp [envTaken, hk]

/-- Settles O56: the refusals by `step_eq_refused_iff`, the end by `run_completions`. -/
theorem runIsOverWhenNothingIsOutstanding : Obligations.RunIsOverWhenNothingIsOutstanding := by
  refine ⟨State.runOver_iff, fun s => ?_, fun s => ?_, fun s hs hp => ?_⟩
  · rw [step_eq_refused_iff (by simp), s.runOver_iff, s.idleRefusal_eq]
    simp
  · rw [step_eq_refused_iff (by simp), s.idleRefusal_eq]
    simp
  · exact run_completions _ (hs.of_pending _) rfl rfl

end Sys2Proof.Machine

/-! PROOFS. The flat memory (20_memory R60, R64, R75): only a triggered transfer changes it, by its move and by nothing
else; and the reads (R69). -/

namespace Sys2Proof.Machine

/-! ### The ranges of a move as the rules write them -/

/-- Outside a range: the distance from its base, modulo 2^32, is at least its length (20_memory R64). -/
theorem inRange_eq_false_iff {a : Nat} (ha : a < 2 ^ 32) (base n : Word) :
    inRange base n a = false ↔ n.toNat ≤ (a + 2 ^ 32 - base.toNat) % 2 ^ 32 := by
  have hdist : (BitVec.ofNat 32 a - base).toNat = (a + 2 ^ 32 - base.toNat) % 2 ^ 32 := by
    rw [BitVec.toNat_sub, BitVec.toNat_ofNat, Nat.mod_eq_of_lt ha]
    omega
  rw [inRange, decide_eq_false_iff_not, not_lt, hdist]

theorem rangeBacked_iff (ram : List Region) (base n : Word) : rangeBacked ram base n = true ↔
    base.toNat + n.toNat ≤ 2 ^ 32 ∧ ∃ g ∈ ram, g.base ≤ base.toNat ∧ base.toNat + n.toNat ≤ g.base + g.size := by
  simp only [rangeBacked, Bool.and_eq_true, decide_eq_true_eq, List.any_eq_true]

theorem moveStated_iff (ram : List Region) (dst src n : Word) : moveStated ram dst src n = true ↔
    rangeBacked ram dst n = true ∧ rangeBacked ram src n = true ∧
      (dst.toNat + n.toNat ≤ src.toNat ∨ src.toNat + n.toNat ≤ dst.toNat) := by
  simp only [moveStated, Bool.and_eq_true, Bool.or_eq_true, decide_eq_true_eq, and_assoc]

theorem Channel.count_toNat (r : Channel) : r.count.toNat = r.len.toNat % 2 ^ 31 := by
  rw [Channel.count, BitVec.toNat_setWidth, BitVec.extractLsb'_toNat, Nat.shiftRight_zero]
  omega

/-! ### The memory after an operation -/

/-- The trigger condition fails as soon as one of its two bits is 0 (42_dma R198). -/
theorem State.triggers_eq_false_iff (s : State) (c : Chan) (data : Word) : s.triggers c data = false ↔
    data.getLsbD 0 = false ∨ (s.chan c).en.getLsbD 0 = false :=
  Bool.and_eq_false_iff

/-- The memory is reached by Move only (20_memory R60). -/
theorem Env.react_mem {e : Event} (he : ∀ dst src n, e ≠ .move dst src n) (cfg : Config) (env : Env) :
    (env.react cfg e).mem = env.mem := by
  cases e with
  | move dst src n => exact absurd rfl (he dst src n)
  | schedRequest hd delta => cases hd <;> rfl
  | _ => rfl

/-- A Move comes from a triggered transfer (42_dma R199). -/
theorem move_mem_emitted {i : Instr} {s : State} {dst src n : Word} (h : .move dst src n ∈ emitted i s) :
    ∃ c data, i = wrSt c data ∧ s.triggers c data = true := by
  have gp {c : Chan} {data : Word} (hg : .move dst src n ∈ gpEmitted c data s) : s.triggers c data = true := by
    by_contra ht
    simp [gpEmitted, ht] at hg
  cases i with
  | dma0WrSt data =>
    refine ⟨.ch0, data, rfl, ?_⟩
    by_contra ht
    simp [emitted, primaryEmitted, ht] at h
  | dma1WrSt data => exact ⟨.ch1, data, rfl, gp h⟩
  | dma2WrSt data => exact ⟨.ch2, data, rfl, gp h⟩
  | dma3WrSt data => exact ⟨.ch3, data, rfl, gp h⟩
  | dma0Done => cases hb : (s.chan .ch0).busy <;> simp [emitted, hb] at h
  | _ => simp [emitted] at h

/-- An operation that is no triggered transfer leaves the flat memory as it was. -/
theorem exec_mem_of_no_transfer {i : Instr} {s t : State} (h : exec i s = .next t)
    (hi : ∀ c data, i = wrSt c data → s.triggers c data = false) : t.env.mem = s.env.mem := by
  rw [exec_env h]
  refine envAfter_keeps (P := fun env => env.mem = s.env.mem) (fun e he env henv => ?_) (envTaken_mem i s.env)
  rw [Env.react_mem _, henv]
  rintro dst src n rfl
  obtain ⟨c, data, hc, ht⟩ := move_mem_emitted he
  exact Bool.false_ne_true ((hi c data hc).symm.trans ht)

/-- A triggered transfer moves the bytes of its operands, and neither its interrupt nor its callback request touches the
memory (42_dma R202, R203). -/
theorem exec_mem_of_transfer {s t : State} {c : Chan} {data : Word} (h : exec (wrSt c data) s = .next t)
    (ht : s.triggers c data = true) :
    t.env.mem = s.env.mem.move s.cfg.ram (s.chan c).moveDst (s.chan c).moveSrc (s.chan c).count := by
  rw [exec_env h]
  cases c with
  | ch0 =>
    cases hi : inlineTransfer s.cfg (s.chan .ch0).count <;>
      simp [wrSt, emitted, primaryEmitted, ht, hi, envAfter, envTaken]
  | ch1 | ch2 | ch3 => simp [wrSt, emitted, gpEmitted, ht, envAfter, envTaken]

/-- Settles O42: the memory after the trigger is the move of the channel's operands (`exec_mem_of_transfer`), and
`Memory.read_move_outside` and `Memory.read_move_inside` say what a move does to a byte. -/
theorem triggerMovesTheBytes : Obligations.TriggerMovesTheBytes := by
  intro s c d hwf hd hen r n dst src
  obtain ⟨t, h⟩ := exec_completes (i := wrSt c d) (by cases c <;> simp [wrSt]) s
  have hmem := exec_mem_of_transfer h (Bool.and_eq_true_iff.2 ⟨hd, hen⟩)
  have hn : r.count.toNat = n := r.count_toNat
  refine ⟨t, h, fun a ha hout => ?_, fun hdst hsrc hdisj hdstRam hsrcRam i hi => ?_⟩
  · rw [State.memByte, hmem]
    exact Memory.read_move_outside _ _ _ _ _ ((inRange_eq_false_iff ha r.moveDst r.count).2 (hn ▸ hout))
  · have hstated : moveStated s.cfg.ram r.moveDst r.moveSrc r.count = true := by
      rw [moveStated_iff, rangeBacked_iff, rangeBacked_iff, hn]
      exact ⟨⟨hdst, hdstRam⟩, ⟨hsrc, hsrcRam⟩, hdisj⟩
    rw [State.memByte, hmem]
    exact Memory.read_move_inside hwf _ hstated (hn ▸ hi)

/-- Settles O43: without the trigger condition no Move is emitted (`exec_mem_of_no_transfer`). -/
theorem onlyTriggersTouchTheMemory : Obligations.OnlyTriggersTouchTheMemory := by
  intro i s t h hi a
  rw [State.memByte, State.memByte,
    exec_mem_of_no_transfer h fun c d hc => (s.triggers_eq_false_iff c d).2 (hi c d hc)]

/-! ### Reads -/

/-- No read looks at the result of an earlier one. -/
theorem returned_of_rv (i : Instr) (s : State) (rv : Option Word) : returned i { s with rv := rv } = returned i s := by
  cases i <;> rfl

/-- A read of an intercepted register leaves its result and nothing else (20_memory R69). -/
theorem exec_of_isPlainRead {i : Instr} (hi : isPlainRead i = true) (s : State) :
    exec i s = .next { s with rv := returned i s } := by
  cases i with
  | rtcRdh w | rtcRdl w | rtcRden w | regRd8Rst | regRd8Vreg | regRd16Pair => rfl
  | dmaRdDst c | dmaRdSrc c | dmaRdLen c | dmaRdDir c | dmaRdEn c | dmaRdSt c | dmaRdSusp c => rfl
  | _ => cases hi

/-- A read of no intercepted register is diagnosed, or forwarded to the external register file: one event either way, and
the block is left as it was. -/
theorem exec_of_otherRead {i : Instr} {s t : State} (h : exec i s = .next t) (hr : isRead i = true)
    (hplain : isPlainRead i = false) : t.blk = s.blk ∧ ∃ e, t.trace = s.trace ++ [e] := by
  cases i with
  | rtcRdinv w off | regRdBadw a | regRdPass w a | dmaRdRsvd c low | dmaRdBadw w c low => cases h; exact ⟨rfl, _, rfl⟩
  | _ => cases hr <;> cases hplain

/-- A trigger is a write. -/
theorem isRead_wrSt (c : Chan) (data : Word) : isRead (wrSt c data) = false := by cases c <;> rfl

/-- Settles O51: a plain read leaves its result only, which the same read then finds again; any other read changes no
register, is no transfer and emits one event. -/
theorem readsHaveNoSideEffect : Obligations.ReadsHaveNoSideEffect := by
  intro i s t h
  refine ⟨fun hplain => ?_, fun hr hplain => ?_⟩
  · rw [exec_of_isPlainRead hplain] at h
    cases h
    refine ⟨rfl, ?_⟩
    rw [exec_of_isPlainRead hplain]
    simp only [returned_of_rv]
  · obtain ⟨hblk, htrace⟩ := exec_of_otherRead h hr hplain
    refine ⟨hblk, exec_mem_of_no_transfer h fun c data hc => ?_, htrace⟩
    rw [hc, isRead_wrSt] at hr
    cases hr

end Sys2Proof.Machine

/-! PROOFS. The round trip from a word to its operation and back (spec/30_encoding.md R94, R95), and the words that spell no
operation (R96). -/

namespace Sys2Proof
open Machine

/-! ### The words that spell an operation -/

theorem opwSpellsNothing_iff (w : Word) : opwSpellsNothing w = true ↔
    opwWc w = 3#2 ∨ opwZ w ≠ 0#12 ∨ (opwPort w = 0#2 ∧ selRtcHigh (opwSel w) ≠ 0#7)
      ∨ (opwPort w = 2#2 ∧ selDmaHigh (opwSel w) ≠ 0#8)
      ∨ (opwPort w = 3#2 ∧ (opwRw w = 1#1 ∨ opwWc w ≠ 0#2 ∨ 2 < (opwSel w).toNat)) := by
  simp only [opwSpellsNothing, Bool.or_eq_true, Bool.and_eq_true, beq_iff_eq, bne_iff_ne, decide_eq_true_eq, or_assoc]

theorem Width.code_ofCode {c : BitVec 2} (h : c ≠ 3#2) : (Width.ofCode c).code = c := by
  revert c; decide

/-- The words of 30_encoding R91 whose selector is one of R92: an access through one of the three ports, or an event. -/
inductive SpellsAccess : Word → Prop
  | rtc (rw : BitVec 1) (w : Width) (off : BitVec 8) : SpellsAccess (opwOf 0#2 rw w.code (rtcSel off))
  | reg (rw : BitVec 1) (w : Width) (a : RegAddr) : SpellsAccess (opwOf 1#2 rw w.code a)
  | dma (rw : BitVec 1) (w : Width) (c : Chan) (low : BitVec 5) : SpellsAccess (opwOf 2#2 rw w.code (dmaSel c low))
  | evt (sel : RegAddr) (h : sel.toNat ≤ 2) : SpellsAccess (opwOf 3#2 0#1 0#2 sel)

/-- A word outside the list of 30_encoding R96(b) is put together from the fields of its port. -/
theorem spellsAccess_of_not_opwSpellsNothing {w : Word} (h : ¬ opwSpellsNothing w = true) : SpellsAccess w := by
  simp only [opwSpellsNothing_iff, not_or, not_and, not_not, not_lt] at h
  obtain ⟨hwc, hz, hrtc, hdma, hevt⟩ := h
  rw [← opwOf_fields w hz, ← Width.code_ofCode hwc]
  obtain hp | hp | hp | hp := bitVec2_cases (opwPort w) <;> rw [hp]
  · rw [← rtcSel_selOff _ (hrtc hp)]; exact .rtc ..
  · exact .reg ..
  · rw [← dmaSel_fields _ (hdma hp)]; exact .dma ..
  · obtain ⟨hrw, hwc0, hsel⟩ := hevt hp
    rw [(bitVec1_cases _).resolve_right hrw, hwc0]
    exact .evt _ hsel

/-! ### The operation of a word spells that word -/

/-- An operation of the map of 30_encoding R95 whose word is `w`. -/
def Spells (cfg : Config) (i : Instr) (w : Word) : Prop := i.wf cfg = true ∧ (encode cfg i).opw = w

/-- SEL[4:0] names no register exactly when it is none of the seven registers' (42_dma R194). -/
theorem dmaLowInvalid_iff (low : BitVec 5) : dmaLowInvalid low = true ↔
    low ≠ 0x00#5 ∧ low ≠ 0x04#5 ∧ low ≠ 0x08#5 ∧ low ≠ 0x0C#5 ∧ low ≠ 0x14#5 ∧ low ≠ 0x18#5 ∧ low ≠ 0x1C#5 := by
  revert low; decide

section ports
variable (cfg : Config) (d : Word)

theorem decode_rtc_spells (rw : BitVec 1) (w : Width) (off : BitVec 8) :
    Spells cfg (decode cfg ⟨opwOf 0#2 rw w.code (rtcSel off), d⟩) (opwOf 0#2 rw w.code (rtcSel off)) := by
  obtain rfl | rfl := bitVec1_cases rw
  · rw [decode_rtcRead]
    split_ifs with h0 h4 h8
    · exact ⟨rfl, by rw [h0]; rfl⟩
    · exact ⟨rfl, by rw [h4]; rfl⟩
    · exact ⟨rfl, by rw [h8]; rfl⟩
    · exact ⟨rtcOffInvalid_iff.2 ⟨h0, h4, h8⟩, rfl⟩
  · rw [decode_rtcWrite]
    split_ifs with h0 h4 h8
    · exact ⟨rfl, by rw [h0]; rfl⟩
    · exact ⟨rfl, by rw [h4]; rfl⟩
    · exact ⟨rfl, by rw [h8]; rfl⟩
    · exact ⟨rtcOffInvalid_iff.2 ⟨h0, h4, h8⟩, rfl⟩

theorem decode_regByte_spells (rw : BitVec 1) (a : RegAddr) :
    Spells cfg (decode cfg ⟨opwOf 1#2 rw 0#2 a, d⟩) (opwOf 1#2 rw 0#2 a) := by
  obtain rfl | rfl := bitVec1_cases rw
  · rw [decode_regReadByte]
    split_ifs with hrst hvreg
    · exact ⟨rfl, by rw [hrst]; rfl⟩
    · exact ⟨rfl, by rw [hvreg]; rfl⟩
    · exact ⟨by simp [Instr.wf, regIntercepted, hrst, hvreg], rfl⟩
  · rw [decode_regWriteByte]
    split_ifs with hrst hvreg
    · exact ⟨rfl, by rw [hrst]; rfl⟩
    · exact ⟨rfl, by rw [hvreg]; rfl⟩
    · exact ⟨by simp [Instr.wf, regIntercepted, hrst, hvreg], rfl⟩

theorem decode_regHalf_spells (rw : BitVec 1) (a : RegAddr) :
    Spells cfg (decode cfg ⟨opwOf 1#2 rw 1#2 a, d⟩) (opwOf 1#2 rw 1#2 a) := by
  obtain rfl | rfl := bitVec1_cases rw
  · rw [decode_regReadHalf]
    split_ifs with hrst
    · exact ⟨rfl, by rw [hrst]; rfl⟩
    · exact ⟨by simp [Instr.wf, regIntercepted, hrst], rfl⟩
  · rw [decode_regWriteHalf]
    split_ifs with hrst
    · exact ⟨rfl, by rw [hrst]; rfl⟩
    · exact ⟨by simp [Instr.wf, regIntercepted, hrst], rfl⟩

theorem decode_regWord_spells (rw : BitVec 1) (a : RegAddr) :
    Spells cfg (decode cfg ⟨opwOf 1#2 rw 2#2 a, d⟩) (opwOf 1#2 rw 2#2 a) := by
  obtain rfl | rfl := bitVec1_cases rw
  · rw [decode_regReadWord]; exact ⟨rfl, rfl⟩
  · rw [decode_regWriteWord]; exact ⟨rfl, rfl⟩

theorem decode_dmaNarrow_spells (rw : BitVec 1) (w : Narrow) (c : Chan) (low : BitVec 5) :
    Spells cfg (decode cfg ⟨opwOf 2#2 rw w.toWidth.code (dmaSel c low), d⟩)
      (opwOf 2#2 rw w.toWidth.code (dmaSel c low)) := by
  obtain rfl | rfl := bitVec1_cases rw
  · rw [decode_dmaReadNarrow]; exact ⟨rfl, rfl⟩
  · rw [decode_dmaWriteNarrow]; exact ⟨rfl, rfl⟩

theorem wrSt_spells (c : Chan) : Spells cfg (wrSt c d) (opwOf 2#2 1#1 2#2 (dmaSel c 0x18#5)) := by
  cases c <;> exact ⟨rfl, rfl⟩

theorem decode_dmaWord_spells (rw : BitVec 1) (c : Chan) (low : BitVec 5) :
    Spells cfg (decode cfg ⟨opwOf 2#2 rw 2#2 (dmaSel c low), d⟩) (opwOf 2#2 rw 2#2 (dmaSel c low)) := by
  obtain rfl | rfl := bitVec1_cases rw
  · rw [decode_dmaRead]
    split_ifs with h0 h4 h8 hC h14 h18 h1C
    iterate 7 · exact ⟨rfl, by subst low; rfl⟩
    · exact ⟨(dmaLowInvalid_iff low).2 ⟨h0, h4, h8, hC, h14, h18, h1C⟩, rfl⟩
  · rw [decode_dmaWrite]
    split_ifs with h0 h4 h8 hC h14 h1C h18
    iterate 6 · exact ⟨rfl, by subst low; rfl⟩
    · rw [h18]; exact wrSt_spells cfg d c
    · exact ⟨(dmaLowInvalid_iff low).2 ⟨h0, h4, h8, hC, h14, h18, h1C⟩, rfl⟩

theorem decode_event_spells {sel : RegAddr} (h : sel.toNat ≤ 2) :
    Spells cfg (decode cfg ⟨opwOf 3#2 0#1 0#2 sel, d⟩) (opwOf 3#2 0#1 0#2 sel) := by
  rw [decode_event]
  split_ifs with h0 h1 h2
  · exact ⟨rfl, by rw [h0]; rfl⟩
  · exact ⟨rfl, by rw [h1]; rfl⟩
  · exact ⟨rfl, by rw [h2]; rfl⟩
  · simp only [← BitVec.toNat_inj, BitVec.toNat_ofNat] at h0 h1 h2
    omega

end ports

/-- The decoder yields an operation of the map and drops no bit of the word (30_encoding R94). -/
theorem decode_spells (cfg : Config) (o : Op) : Spells cfg (decode cfg o) o.opw := by
  obtain ⟨w, d⟩ := o
  by_cases hw : opwSpellsNothing w = true
  · rw [decode_opwSpellsNothing cfg d hw]
    exact ⟨hw, rfl⟩
  · cases spellsAccess_of_not_opwSpellsNothing hw with
    | rtc rw w off => exact decode_rtc_spells cfg d rw w off
    | reg rw w a => cases w with
      | b1 => exact decode_regByte_spells cfg d rw a
      | b2 => exact decode_regHalf_spells cfg d rw a
      | b4 => exact decode_regWord_spells cfg d rw a
    | dma rw w c low => cases w with
      | b1 => exact decode_dmaNarrow_spells cfg d rw .one c low
      | b2 => exact decode_dmaNarrow_spells cfg d rw .two c low
      | b4 => exact decode_dmaWord_spells cfg d rw c low
    | evt sel h => exact decode_event_spells cfg d h

/-- The verdict OPW.INVALID is given to the listed words and to no other (30_encoding R96(b)). -/
theorem decode_eq_opwInvalid_iff (cfg : Config) (w d : Word) :
    decode cfg ⟨w, d⟩ = .opwInvalid w ↔ opwSpellsNothing w = true := by
  refine ⟨fun h => ?_, decode_opwSpellsNothing cfg d⟩
  have hwf := (decode_spells cfg ⟨w, d⟩).1
  rwa [h] at hwf

/-! ### The statements of spec/30_encoding.md on words -/

/-- Settles O1: `decode_encode`, row by row. -/
theorem decodeOfEncodeIsTheOperation : Obligations.DecodeOfEncodeIsTheOperation :=
  fun _ _ h => decode_encode h

/-- Settles O2: a word outside R96(b) is put together from the fields of its port, and each port's operations spell it. -/
theorem encodeOfDecodeIsTheWord : Obligations.EncodeOfDecodeIsTheWord :=
  decode_spells

/-- Settles O3: a listed word selects no other row, and OPW.INVALID is an operation of the map for a listed word only. -/
theorem invalidWordsAreExactlyTheListed : Obligations.InvalidWordsAreExactlyTheListed :=
  fun cfg w d => (decode_eq_opwInvalid_iff cfg w d).trans (opwSpellsNothing_iff w)

/-- Settles O4: the meaning of OPW.INVALID looks at no part of the state. -/
theorem invalidWordIsRefused : Obligations.InvalidWordIsRefused :=
  fun _ _ => rfl

/-- Settles O5, each word evaluated through the rows of the default configuration. -/
theorem writtenWordsDecode : Obligations.WrittenWordsDecode := by
  unfold Obligations.WrittenWordsDecode
  decide

end Sys2Proof

/-! PROOFS. Scripts (spec/30_encoding.md R97, R98): a run of the machine on a script is its operations executed one after
another, and a DMA transfer as its trigger leaves it. -/

namespace Sys2Proof.Machine

/-! ### Running a script -/

section offered
variable (s : State) (ls : List Line)

theorem State.gpTrigger_offerScript (c : Chan) (data : Word) :
    (s.offerScript ls).gpTrigger c data = (s.gpTrigger c data).offerScript ls := by
  rw [State.gpTrigger, State.gpTrigger, apply_ite (State.offerScript ls)]
  rfl

theorem State.primaryTrigger_offerScript (data : Word) :
    (s.offerScript ls).primaryTrigger data = (s.primaryTrigger data).offerScript ls := by
  rw [State.primaryTrigger, State.primaryTrigger, apply_ite (State.offerScript ls), apply_ite (State.offerScript ls)]
  rfl

end offered

/-- No operation looks at the operations that come after it. -/
theorem exec_offerScript {i : Instr} {s t : State} (h : exec i s = .next t) (ls : List Line) :
    exec i (s.offerScript ls) = .next (t.offerScript ls) := by
  cases i with
  | rtcWrh w data | rtcWrl w data =>
    cases h
    refine congrArg Host.Outcome.next ?_
    rw [apply_ite (State.offerScript ls)]
    rfl
  | dma0WrSt data =>
    cases h; exact congrArg (fun u : State => Host.Outcome.next u.done) (s.primaryTrigger_offerScript ls data)
  | dma1WrSt data | dma2WrSt data | dma3WrSt data =>
    cases h; exact congrArg (fun u : State => Host.Outcome.next u.done) (s.gpTrigger_offerScript ls _ data)
  | dma0Done =>
    cases h
    refine congrArg Host.Outcome.next ?_
    rw [apply_ite State.done, apply_ite State.done, apply_ite (State.offerScript ls)]
    rfl
  | opwInvalid w => cases h
  | _ => cases h; rfl

/-- A script runs as the operations its lines decode to, one after another (30_encoding R97, 00_scope R5). -/
theorem run_offerScript (ls : List Line) {s t : State}
    (h : runAll (ls.map fun l => decode s.cfg l.op) s = .next t) :
    Host.Core.run Sys2Proof.core ls.length (s.offerScript ls) = .next t := by
  induction ls generalizing s with
  | nil => exact h
  | cons l ls ih =>
    cases hu : exec (decode s.cfg l.op) s with
    | next u =>
      rw [List.map_cons, runAll_cons hu] at h
      exact (run_succ (s := s.offerScript (l :: ls)) rfl (exec_offerScript hu ls) ls.length).trans
        (ih ((exec_takesOneOperation hu).cfg ▸ h))
    | fault f => simp [runAll, hu] at h
    | refused r => simp [runAll, hu] at h

@[simp] theorem regAddrOfAddr_setWidth (a : RegAddr) : regAddrOfAddr (a.setWidth 32) = a := by
  apply BitVec.eq_of_getLsbD_eq
  intro i hi
  simp [regAddrOfAddr, hi, show i < 32 by omega]

/-- `rtc.lock` clears the latch (40_rtc R126). -/
theorem runAll_rtcLock (s : State) : runAll (rtcLock.map fun l => decode s.cfg l.op) s =
    .next { s with blk := { s.blk with rtcEn := false }, rv := none } := by
  simp only [rtcLock, List.map_cons, List.map_nil, Line.op_wrRtc, decode_rtcWrite]
  rfl

/-- A 1-byte write at `A_RST` stores the byte and drives the co-processor's enable (41_reset_latch_decoder R152, R161). -/
theorem runAll_wrReg_aRst (s : State) (data : Word) :
    runAll ([.wrReg .b1 (s.cfg.aRst.setWidth 32) data].map fun l => decode s.cfg (Line.op l)) s = .next { s with
      blk := { s.blk with armrst := dataLowByte data }
      env := { s.env with copEnabled := some (copEnabledBy (dataLowByte data)) }
      trace := s.trace ++ [.copSetEnabled (copEnabledBy (dataLowByte data))], rv := none } := by
  simp only [List.map_cons, List.map_nil, Line.op_wrReg, regAddrOfAddr_setWidth, Width.code, decode_regWriteByte, if_true]
  rfl

/-! ### A transfer's trigger -/

/-- A state with channel `c` replaced in its block, and the same configuration and operations offered. -/
theorem onlyChannel_of_blk {c : Chan} {s t : State} {r : Channel} (hblk : t.blk = s.blk.setChan c r)
    (hcfg : t.cfg = s.cfg) (hpend : t.pending = s.pending) : OnlyChannel c s t := by
  refine ⟨(State.chan_of_blk hblk).2, ?_, ?_, ?_, ?_, hcfg, hpend⟩ <;> rw [hblk]
  · exact Block.setChan_rtc ..
  · exact Block.setChan_rtcEn ..
  · exact Block.setChan_armrst ..
  · exact Block.setChan_vreg ..

theorem OnlyChannel.trans {c : Chan} {s t u : State} (hst : OnlyChannel c s t) (htu : OnlyChannel c t u) :
    OnlyChannel c s u := by
  obtain ⟨hchan, hrtc, hen, harm, hvreg, hcfg, hpend⟩ := hst
  obtain ⟨hchan', hrtc', hen', harm', hvreg', hcfg', hpend'⟩ := htu
  exact ⟨fun c' hc => (hchan' c' hc).trans (hchan c' hc), hrtc'.trans hrtc, hen'.trans hen, harm'.trans harm,
    hvreg'.trans hvreg, hcfg'.trans hcfg, hpend'.trans hpend⟩

section triggers
variable {s : State} {c : Chan} {data : Word}

theorem exec_wrSt_ch0 (data : Word) (s : State) : exec (wrSt .ch0 data) s = .next (s.primaryTrigger data).done := rfl

theorem exec_wrSt_of_ne_ch0 (hc : c ≠ .ch0) (data : Word) (s : State) :
    exec (wrSt c data) s = .next (s.gpTrigger c data).done := by
  cases c with
  | ch0 => exact absurd rfl hc
  | ch1 | ch2 | ch3 => rfl

/-- A triggered general-purpose transfer (42_dma R203). -/
theorem exec_wrSt_gp (hc : c ≠ .ch0) (ht : s.triggers c data = true) :
    ∃ t : State, exec (wrSt c data) s = .next t ∧ OnlyChannel c s t ∧ t.rv = none ∧
      t.chan c = (s.chan c).completed s.cfg c ∧
      t.env = { s.env with
        mem := s.env.mem.move s.cfg.ram (s.chan c).moveDst (s.chan c).moveSrc (s.chan c).count } ∧
      t.trace = s.trace ++ [.log (.dmaXfer c (s.chan c).swapped (s.chan c).moveDst (s.chan c).moveSrc (s.chan c).count),
        .move (s.chan c).moveDst (s.chan c).moveSrc (s.chan c).count, .raiseInt ⟨c⟩] := by
  rw [exec_wrSt_of_ne_ch0 hc, State.gpTrigger_eq _ _ _ ht]
  exact ⟨_, rfl, onlyChannel_of_blk rfl rfl rfl, rfl, (State.chan_of_blk rfl).1, rfl, rfl⟩

/-- A triggered transfer of channel 0 below the threshold (42_dma R202). -/
theorem exec_wrSt_inline (ht : s.triggers .ch0 data = true) (hi : inlineTransfer s.cfg (s.chan .ch0).count = true) :
    ∃ t : State, exec (wrSt .ch0 data) s = .next t ∧ OnlyChannel .ch0 s t ∧ t.rv = none ∧
      t.chan .ch0 = (s.chan .ch0).completed s.cfg .ch0 ∧
      t.env = { s.env with
        mem := s.env.mem.move s.cfg.ram (s.chan .ch0).moveDst (s.chan .ch0).moveSrc (s.chan .ch0).count } ∧
      t.trace = s.trace ++ [.move (s.chan .ch0).moveDst (s.chan .ch0).moveSrc (s.chan .ch0).count,
        .raiseInt ⟨.ch0⟩] := by
  rw [exec_wrSt_ch0, State.primaryTrigger_inline _ _ ht hi]
  exact ⟨_, rfl, onlyChannel_of_blk rfl rfl rfl, rfl, (State.chan_of_blk rfl).1, rfl, rfl⟩

/-- A triggered transfer of channel 0 at or above the threshold (42_dma R202). -/
theorem exec_wrSt_defer (ht : s.triggers .ch0 data = true) (hi : inlineTransfer s.cfg (s.chan .ch0).count = false) :
    ∃ t : State, exec (wrSt .ch0 data) s = .next t ∧ OnlyChannel .ch0 s t ∧ t.rv = none ∧
      t.chan .ch0 = { s.chan .ch0 with st := 1#32, susp := clearIndicator s.cfg (s.chan .ch0).susp } ∧
      t.env = { s.env with
        mem := s.env.mem.move s.cfg.ram (s.chan .ch0).moveDst (s.chan .ch0).moveSrc (s.chan .ch0).count
        armDma0 := armed s.cfg s.env.armDma0 (cycles s.cfg (s.chan .ch0).count) } ∧
      t.trace = s.trace ++ [.move (s.chan .ch0).moveDst (s.chan .ch0).moveSrc (s.chan .ch0).count,
        .schedRequest .dma0 (cycles s.cfg (s.chan .ch0).count)] := by
  rw [exec_wrSt_ch0, State.primaryTrigger_defer _ _ ht hi]
  exact ⟨_, rfl, onlyChannel_of_blk rfl rfl rfl, rfl, (State.chan_of_blk rfl).1, rfl, rfl⟩

end triggers

/-- The threshold as 42_dma R202 writes it. -/
theorem inlineTransfer_count_iff (cfg : Config) (r : Channel) : inlineTransfer cfg r.count = true ↔
    (r.len &&& 0x7FFFFFFF#32).toNat * (cfg.clock / 2 / 25000000) < 4096 := by
  rw [inlineTransfer, decide_eq_true_eq, cycles_count, tInline]

/-! ### `dma.xfer` -/

/-- The registers of a channel that `dma.xfer` has set up for its trigger (30_encoding R98). -/
def Channel.ready (src dst n dir : Word) (r : Channel) : Channel :=
  { r with src := src, dst := dst, len := n, dir := dir, en := 1#32 }

/-- The state once `dma.xfer` has set channel `c` up. -/
def State.dmaReady (s : State) (c : Chan) (src dst n dir : Word) : State :=
  (s.setChan c ((s.chan c).ready src dst n dir)).done

/-- A write after another of the same channel: one replacement of its registers. -/
theorem State.done_setChan_setChan (s : State) (c : Chan) (r r' : Channel) :
    ((s.setChan c r).done.setChan c r').done = (s.setChan c r').done := by
  cases c <;> rfl

/-- The five register writes set the channel up, and the trigger follows. -/
theorem runAll_dmaXfer (s : State) (c : Chan) (src dst n dir : Word) :
    runAll ((dmaXfer c src dst n dir).map fun l => decode s.cfg l.op) s =
      runAll [wrSt c 1#32] (s.dmaReady c src dst n dir) := by
  have hops : (dmaXfer c src dst n dir).map (fun l => decode s.cfg l.op) =
      [.dmaWrSrc c src, .dmaWrDst c dst, .dmaWrLen c n, .dmaWrDir c dir, .dmaWrEn c 1#32, wrSt c 1#32] := by
    simp [dmaXfer, dmaSetUp, Line.op_wrDma, DmaReg.low, DmaReg.idx]
  rw [hops]
  simp only [runAll, exec, execDmaWrSrc, execDmaWrDst, execDmaWrLen, execDmaWrDir, execDmaWrEn, State.done_chan,
    State.chan_setChan_self, State.done_setChan_setChan, State.dmaReady, Channel.ready]

section ready
variable (s : State) (c : Chan) (src dst n dir : Word)

theorem run_dmaXfer {t : State} (h : exec (wrSt c 1#32) (s.dmaReady c src dst n dir) = .next t) :
    Host.Core.run Sys2Proof.core 6 (s.offerScript (dmaXfer c src dst n dir)) = .next t :=
  run_offerScript (dmaXfer c src dst n dir) ((runAll_dmaXfer s c src dst n dir).trans (runAll_cons h []))

@[simp] theorem State.dmaReady_chan :
    (s.dmaReady c src dst n dir).chan c = (s.chan c).ready src dst n dir := State.chan_setChan_self ..

theorem State.dmaReady_triggers : (s.dmaReady c src dst n dir).triggers c 1#32 = true := by
  simp [State.triggers, Channel.enabled, Channel.ready, bit0]

theorem State.dmaReady_onlyChannel : OnlyChannel c s (s.dmaReady c src dst n dir) := onlyChannel_of_blk rfl rfl rfl

theorem Channel.ready_completed (cfg : Config) (r : Channel) : (r.ready src dst n dir).completed cfg c = {
    dst := dst + (n &&& 0x7FFFFFFF#32), src := src + (n &&& 0x7FFFFFFF#32), len := 0#32, dir := dir,
    en := if n.getLsbD 31 then 1#32 else 0#32, st := 0#32,
    susp := if c = .ch0 then r.susp ||| cfg.suspInd else r.susp } := by
  rw [Channel.completed, Channel.count_eq]; rfl

end ready

/-- Settles O54: each script runs as the operations its lines decode to (`run_offerScript`); `dma.xfer` sets its channel up
and triggers it, and the trigger completes at once, completes inline or defers. -/
theorem pseudoOperationScripts : Obligations.PseudoOperationScripts := by
  intro s c src dst n dir
  refine ⟨run_offerScript rtcLock (runAll_rtcLock s), run_offerScript (copHold s.cfg) (runAll_wrReg_aRst s 1#32),
    run_offerScript (copRelease s.cfg) (runAll_wrReg_aRst s 0#32), ?_⟩
  intro cnt mvDst mvSrc cyc susp completed
  have hcount : ((s.chan c).ready src dst n dir).count = cnt := Channel.count_eq _
  have hdone : ((s.chan c).ready src dst n dir).completed s.cfg c = completed := Channel.ready_completed ..
  have hready := s.dmaReady_onlyChannel c src dst n dir
  have htrig := s.dmaReady_triggers c src dst n dir
  by_cases hc : c = .ch0
  · subst hc
    have hcyc : inlineTransfer s.cfg cnt = true ↔ cyc < 4096 := hcount ▸ inlineTransfer_count_iff ..
    by_cases hi : cyc < 4096
    · obtain ⟨t, h, honly, hrv, hchan, henv, htrace⟩ := exec_wrSt_inline htrig
        (by rw [State.dmaReady_chan, hcount]; exact hcyc.2 hi)
      simp only [State.dmaReady_chan, hcount] at hchan henv htrace
      exact ⟨t, run_dmaXfer s _ _ _ _ _ h, hready.trans honly, hrv, by rw [henv]; rfl, fun hne => absurd rfl hne,
        fun _ _ => ⟨hchan.trans hdone, by rw [henv]; rfl, htrace⟩, fun _ hlong => absurd hi (not_lt.2 hlong)⟩
    · obtain ⟨t, h, honly, hrv, hchan, henv, htrace⟩ := exec_wrSt_defer htrig
        (by rw [State.dmaReady_chan, hcount, Bool.eq_false_iff]; exact mt hcyc.1 hi)
      simp only [State.dmaReady_chan, hcount] at hchan henv htrace
      exact ⟨t, run_dmaXfer s _ _ _ _ _ h, hready.trans honly, hrv, by rw [henv]; rfl, fun hne => absurd rfl hne,
        fun _ hlt => absurd hlt hi, fun _ _ => ⟨hchan, by rw [henv]; rfl, htrace⟩⟩
  · obtain ⟨t, h, honly, hrv, hchan, henv, htrace⟩ := exec_wrSt_gp hc htrig
    simp only [State.dmaReady_chan, hcount] at hchan henv htrace
    exact ⟨t, run_dmaXfer s _ _ _ _ _ h, hready.trans honly, hrv, by rw [henv]; rfl,
      fun _ => ⟨hchan.trans hdone, by rw [henv]; rfl, htrace⟩, fun h0 => absurd h0 hc, fun h0 => absurd h0 hc⟩

end Sys2Proof.Machine

/-! PROOFS. The RTC (spec/40_rtc.md): what each write does with the latch set and with it clear, the write window, and
which operations change the counter and its latch. -/

namespace Sys2Proof.Machine

/-! ### The writes, with the latch set and with it clear -/

section writes
variable {s : State} (w : Width) (d : Word)

theorem exec_rtcWrh_armed (h : s.blk.rtcEn = true) : exec (.rtcWrh w d) s = .next { s with
    blk := { s.blk with rtc := rtcOf (dataHalf d) (rtcLow s.blk.rtc), rtcEn := false }, rv := none } :=
  congrArg Host.Outcome.next (if_pos h)

theorem exec_rtcWrl_armed (h : s.blk.rtcEn = true) : exec (.rtcWrl w d) s = .next { s with
    blk := { s.blk with rtc := rtcOf (rtcHigh s.blk.rtc) (dataHalf d) }, rv := none } :=
  congrArg Host.Outcome.next (if_pos h)

theorem exec_rtcWrh_closed (h : s.blk.rtcEn = false) : exec (.rtcWrh w d) s = .next { s with rv := none } :=
  congrArg Host.Outcome.next (if_neg (by rw [h]; decide))

theorem exec_rtcWrl_closed (h : s.blk.rtcEn = false) : exec (.rtcWrl w d) s = .next { s with rv := none } :=
  congrArg Host.Outcome.next (if_neg (by rw [h]; decide))

theorem exec_rtcWren (s : State) : exec (.rtcWren w d) s = .next { s with
    blk := { s.blk with rtcEn := d.getLsbD 0 }, rv := none } := rfl

end writes

/-! ### The write window -/

section window
variable (s : State) (w : Width) (l h : Word)

/-- Arming opens the window (40_rtc R126): the operations after it run with the latch set. -/
theorem runAll_arm (is : List Instr) : runAll (.rtcWren w 1#32 :: is) s =
    runAll is { s with blk := { s.blk with rtcEn := true }, rv := none } :=
  runAll_cons (exec_rtcWren w 1#32 s) is

/-- Low word, then high word: both are applied, and the window is closed (40_rtc R129(a)). -/
theorem runAll_arm_low_high (is : List Instr) :
    runAll (.rtcWren w 1#32 :: .rtcWrl w l :: .rtcWrh w h :: is) s = runAll is { s with
      blk := { s.blk with rtc := rtcOf (dataHalf h) (dataHalf l), rtcEn := false }, rv := none } := by
  rw [runAll_arm, runAll_cons (exec_rtcWrl_armed w l rfl), runAll_cons (exec_rtcWrh_armed w h rfl), rtcLow_rtcOf]

/-- High word first: it closes the window, and the low word is lost (40_rtc R129(b)). -/
theorem runAll_arm_high_low :
    runAll [.rtcWren w 1#32, .rtcWrh w h, .rtcWrl w l] s = .next { s with
      blk := { s.blk with rtc := rtcOf (dataHalf h) (rtcLow s.blk.rtc), rtcEn := false }, rv := none } := by
  rw [runAll_arm, runAll_cons (exec_rtcWrh_armed w h rfl), runAll_cons (exec_rtcWrl_closed w l rfl), runAll_nil]

/-- Low words follow one another in one window: the last one stands, and the window stays open (40_rtc R129(c)). -/
theorem runAll_arm_low_low (l2 : Word) :
    runAll [.rtcWren w 1#32, .rtcWrl w l, .rtcWrl w l2] s = .next { s with
      blk := { s.blk with rtc := rtcOf (rtcHigh s.blk.rtc) (dataHalf l2), rtcEn := true }, rv := none } := by
  rw [runAll_arm, runAll_cons (exec_rtcWrl_armed w l rfl), runAll_cons (exec_rtcWrl_armed w l2 rfl), runAll_nil,
    rtcHigh_rtcOf]

end window

/-! ### Which operations change the counter and its latch -/

/-- The counter changes only by an armed half write, the tick and RESET (10_state R21). -/
theorem rtcAfter_counter_cases (i : Instr) (rtc : Word) (rtcEn : Bool) :
    (rtcAfter i rtc rtcEn).1 = rtc ∨ (∃ w d, i = .rtcWrh w d ∧ rtcEn = true) ∨
      (∃ w d, i = .rtcWrl w d ∧ rtcEn = true) ∨ i = .rtcTick ∨ ∃ seed, i = .reset seed := by
  cases i with
  | rtcWrh w d =>
    cases rtcEn with
    | true => exact .inr (.inl ⟨w, d, rfl, rfl⟩)
    | false => exact .inl rfl
  | rtcWrl w d =>
    cases rtcEn with
    | true => exact .inr (.inr (.inl ⟨w, d, rfl, rfl⟩))
    | false => exact .inl rfl
  | rtcTick => exact .inr (.inr (.inr (.inl rfl)))
  | reset seed => exact .inr (.inr (.inr (.inr ⟨seed, rfl⟩)))
  | _ => exact .inl rfl

/-- The latch changes only by a write at offset 8, which stores its bit 0, an armed high-word write and RESET (10_state
R22). -/
theorem rtcAfter_latch_cases (i : Instr) (rtc : Word) (rtcEn : Bool) :
    (rtcAfter i rtc rtcEn).2 = rtcEn ∨ (∃ w d, i = .rtcWren w d ∧ (rtcAfter i rtc rtcEn).2 = d.getLsbD 0) ∨
      (∃ w d, i = .rtcWrh w d ∧ rtcEn = true) ∨ ∃ seed, i = .reset seed := by
  cases i with
  | rtcWrh w d =>
    cases rtcEn with
    | true => exact .inr (.inr (.inl ⟨w, d, rfl, rfl⟩))
    | false => exact .inl rfl
  | rtcWrl w d => exact .inl (by cases rtcEn <;> rfl)
  | rtcWren w d => exact .inr (.inl ⟨w, d, rfl, rfl⟩)
  | reset seed => exact .inr (.inr (.inr ⟨seed, rfl⟩))
  | _ => exact .inl rfl

theorem exec_rtc {i : Instr} {s t : State} (h : exec i s = .next t) :
    t.blk.rtc = (rtcAfter i s.blk.rtc s.blk.rtcEn).1 := congrArg Prod.fst (exec_leavesParts h).rtc

theorem exec_rtcEn {i : Instr} {s t : State} (h : exec i s = .next t) :
    t.blk.rtcEn = (rtcAfter i s.blk.rtc s.blk.rtcEn).2 := congrArg Prod.snd (exec_leavesParts h).rtc

/-- An open window closes only by a high-word write, a write at offset 8 with bit 0 clear, or RESET (40_rtc R129). -/
theorem closes_window_cases {i : Instr} {s t : State} (hopen : s.blk.rtcEn = true) (h : exec i s = .next t)
    (hclosed : t.blk.rtcEn = false) :
    (∃ w d, i = .rtcWrh w d) ∨ (∃ w d, i = .rtcWren w d ∧ d.getLsbD 0 = false) ∨ ∃ seed, i = .reset seed := by
  rw [exec_rtcEn h] at hclosed
  obtain hsame | ⟨w, d, hi, hbit⟩ | ⟨w, d, hi, -⟩ | hreset := rtcAfter_latch_cases i s.blk.rtc s.blk.rtcEn
  · rw [hclosed, hopen] at hsame; cases hsame
  · exact .inr (.inl ⟨w, d, hi, hbit.symm.trans hclosed⟩)
  · exact .inl ⟨w, d, hi⟩
  · exact .inr (.inr hreset)

/-! ### The statements -/

/-- Settles O21: the three sequences run as `runAll_arm_low_high`, `runAll_arm_high_low` and `runAll_arm_low_low` say;
a second high-word write meets a closed window. -/
theorem writeWindowSequences : Obligations.WriteWindowSequences := by
  intro s w l l2 h h2
  refine ⟨⟨_, runAll_arm_low_high s w l h [], ?_, rtcHigh_rtcOf .., rtcLow_rtcOf ..⟩,
    ⟨_, runAll_arm_high_low s w l h, rtcHigh_rtcOf .., rtcLow_rtcOf ..⟩,
    ⟨_, runAll_arm_low_low s w l l2, rtcHigh_rtcOf .., rtcLow_rtcOf ..⟩,
    fun _ _ hopen ht hclosed => closes_window_cases hopen ht hclosed⟩
  rw [runAll_arm_low_high, runAll_cons (exec_rtcWrh_closed w h2 rfl), runAll_nil]

/-- Settles O22: the counter and the latch after an operation are `rtcAfter`'s, case by case. -/
theorem onlyItsOwnOperationsChangeTheRtc : Obligations.OnlyItsOwnOperationsChangeTheRtc := by
  intro i s t h
  rw [exec_rtc h, exec_rtcEn h]
  refine ⟨rtcAfter_counter_cases .., ?_⟩
  exact (rtcAfter_latch_cases i s.blk.rtc s.blk.rtcEn).imp_right (.imp_left fun ⟨w, d, hi, _⟩ => ⟨w, d, hi⟩)

/-- Settles O17: each offset selects its read, and the read changes only the result. -/
theorem rtcReadsReturnTheHalves : Obligations.RtcReadsReturnTheHalves :=
  fun s w x => ⟨⟨decode_rtcRead s.cfg x w 0#8, rfl⟩, ⟨decode_rtcRead s.cfg x w 4#8, rfl⟩,
    decode_rtcRead s.cfg x w 8#8, rfl⟩

/-- Settles O18: an offset that is none of the three selects the catch-all, whose diagnostic no collaborator acts on. -/
theorem rtcInvalidOffsetsAreDiagnosed : Obligations.RtcInvalidOffsetsAreDiagnosed := by
  intro s w off d h0 h4 h8
  have hrd := decode_rtcRead s.cfg d w off
  have hwr := decode_rtcWrite s.cfg d w off
  rw [if_neg h0, if_neg h4, if_neg h8] at hrd hwr
  exact ⟨⟨hrd, rfl⟩, hwr, rfl⟩

/-- Settles O19: each offset selects its write, with the latch set and with it clear. -/
theorem rtcWritesFollowTheLatch : Obligations.RtcWritesFollowTheLatch :=
  fun s w d =>
    ⟨⟨decode_rtcWrite s.cfg d w 0#8,
        fun h => ⟨_, exec_rtcWrh_armed w d h, rtcHigh_rtcOf .., rtcLow_rtcOf ..⟩, exec_rtcWrh_closed w d⟩,
      ⟨decode_rtcWrite s.cfg d w 4#8,
        fun h => ⟨_, exec_rtcWrl_armed w d h, rtcLow_rtcOf .., rtcHigh_rtcOf ..⟩, exec_rtcWrl_closed w d⟩,
      decode_rtcWrite s.cfg d w 8#8, exec_rtcWren w d s⟩

/-- Settles O20: the word's sum is the sum modulo 2^32, and the request acts on `arm[H_RTC]` alone. -/
theorem tickCountsAndRearms : Obligations.TickCountsAndRearms := by
  intro s x
  have hsum : s.blk.rtc + 1#32 = BitVec.ofNat 32 ((s.blk.rtc.toNat + 1) % 2 ^ 32) := by
    apply BitVec.eq_of_toNat_eq
    simp
  exact ⟨decode_event s.cfg x 1#15, _, rfl, hsum ▸ rfl, rfl, rfl, rfl, rfl, rfl⟩

/-- Settles O23: a 32-bit word of an integer is that integer modulo 2^32, and RESET loads its operand. -/
theorem seedIsTheEpochSum : Obligations.SeedIsTheEpochSum := by
  intro s unixNow tzBias seed
  refine ⟨?_, _, rfl, rfl⟩
  calc (seed.toNat : Int)
    _ = (((unixNow : Int) + s.cfg.rtcEpochOffset + tzBias) % 2 ^ 32).toNat :=
      congrArg Nat.cast (BitVec.toNat_ofInt ..)
    _ = _ := Int.toNat_of_nonneg (Int.emod_nonneg _ (by decide))

end Sys2Proof.Machine

/-! PROOFS. The reset latch, VREG and the decoder (spec/41_reset_latch_decoder.md): which operation a REG access is, the
two views of the pair, the enable function and the accesses that are forwarded. -/

namespace Sys2Proof.Machine

/-! ### The decoder's rows -/

section dispatch
variable (cfg : Config) (x d : Word)

/-- A 1-byte access at `A_RST` is the latch's (41_reset_latch_decoder R150). -/
theorem decode_regByte_aRst : decode cfg ⟨opwOf 1#2 0#1 0#2 cfg.aRst, x⟩ = .regRd8Rst ∧
    decode cfg ⟨opwOf 1#2 1#1 0#2 cfg.aRst, d⟩ = .regWr8Rst d := by
  rw [decode_regReadByte, decode_regWriteByte, if_pos rfl, if_pos rfl]
  exact ⟨rfl, rfl⟩

/-- A 1-byte access at `A_VREG`, which is not `A_RST`, is VREG's (41_reset_latch_decoder R150). -/
theorem decode_regByte_aVreg : decode cfg ⟨opwOf 1#2 0#1 0#2 (aVreg cfg), x⟩ = .regRd8Vreg ∧
    decode cfg ⟨opwOf 1#2 1#1 0#2 (aVreg cfg), d⟩ = .regWr8Vreg d := by
  rw [decode_regReadByte, decode_regWriteByte, if_neg (aVreg_ne_aRst cfg), if_neg (aVreg_ne_aRst cfg), if_pos rfl,
    if_pos rfl]
  exact ⟨rfl, rfl⟩

/-- A 2-byte access at `A_RST` is the pair's (41_reset_latch_decoder R150). -/
theorem decode_regHalf_aRst : decode cfg ⟨opwOf 1#2 0#1 1#2 cfg.aRst, x⟩ = .regRd16Pair ∧
    decode cfg ⟨opwOf 1#2 1#1 1#2 cfg.aRst, d⟩ = .regWr16Pair d := by
  rw [decode_regReadHalf, decode_regWriteHalf, if_pos rfl, if_pos rfl]
  exact ⟨rfl, rfl⟩

variable {a : RegAddr}

/-- A 1-byte access at any other address is forwarded (41_reset_latch_decoder R150). -/
theorem decode_regByte_pass (hrst : a ≠ cfg.aRst) (hvreg : a ≠ aVreg cfg) :
    decode cfg ⟨opwOf 1#2 0#1 0#2 a, x⟩ = .regRdPass .one a ∧
      decode cfg ⟨opwOf 1#2 1#1 0#2 a, d⟩ = .regWrPass .one a d := by
  rw [decode_regReadByte, decode_regWriteByte, if_neg hrst, if_neg hrst, if_neg hvreg, if_neg hvreg]
  exact ⟨rfl, rfl⟩

/-- A 2-byte access at any other address is forwarded, `A_VREG` included (41_reset_latch_decoder R150). -/
theorem decode_regHalf_pass (hrst : a ≠ cfg.aRst) :
    decode cfg ⟨opwOf 1#2 0#1 1#2 a, x⟩ = .regRdPass .two a ∧
      decode cfg ⟨opwOf 1#2 1#1 1#2 a, d⟩ = .regWrPass .two a d := by
  rw [decode_regReadHalf, decode_regWriteHalf, if_neg hrst, if_neg hrst]
  exact ⟨rfl, rfl⟩

end dispatch

/-- Settles O6: the script's access is the word of the masked address (`Line.op_rdReg`, `Line.op_wrReg`), and each row of
R150's table is a row of the decoder. -/
theorem regDispatchFollowsTheMaskedAddress : Obligations.RegDispatchFollowsTheMaskedAddress := by
  intro cfg addr d a rd wr
  have hrd (w : Width) : rd w = decode cfg ⟨opwOf 1#2 0#1 w.code a, 0#32⟩ :=
    congrArg (decode cfg) (Line.op_rdReg w addr)
  have hwr (w : Width) : wr w = decode cfg ⟨opwOf 1#2 1#1 w.code a, d⟩ :=
    congrArg (decode cfg) (Line.op_wrReg w addr d)
  simp only [hrd, hwr, Width.code]
  refine ⟨fun hrst => ?_, fun (hvreg : a = aVreg cfg) => ?_, fun hrst => ?_, fun (hvreg : a = aVreg cfg) => ?_,
    fun hrst (hvreg : a ≠ aVreg cfg) => ?_, ?_⟩
  · rw [hrst]; exact decode_regByte_aRst cfg 0#32 d
  · rw [hvreg]; exact decode_regByte_aVreg cfg 0#32 d
  · rw [hrst]; exact decode_regHalf_aRst cfg 0#32 d
  · exact decode_regHalf_pass cfg 0#32 d (hvreg ▸ aVreg_ne_aRst cfg)
  · obtain ⟨hrdByte, hwrByte⟩ := decode_regByte_pass cfg 0#32 d hrst hvreg
    obtain ⟨hrdHalf, hwrHalf⟩ := decode_regHalf_pass cfg 0#32 d hrst
    exact ⟨hrdByte, hwrByte, hrdHalf, hwrHalf⟩
  · exact ⟨decode_regReadWord cfg 0#32 a, decode_regWriteWord cfg d a⟩

/-! ### The operands -/

/-- The enable function looks at bit 0 of the byte stored, which is bit 0 of the data (41_reset_latch_decoder R161). -/
theorem copEnabledBy_dataLowByte (d : Word) : copEnabledBy (dataLowByte d) = !d.getLsbD 0 := by
  simp [copEnabledBy, dataLowByte]

@[simp] theorem dataLowByte_zextByte (v : Byte) : dataLowByte (zextByte v) = v := by
  apply BitVec.eq_of_getLsbD_eq
  intro i hi
  simp [dataLowByte, zextByte, hi, show i < 32 by omega]

/-- The low byte of the data's low half is its low byte. -/
theorem extractLsb'_dataHalf (d : Word) : (dataHalf d).extractLsb' 0 8 = d.extractLsb' 0 8 := by
  apply BitVec.eq_of_getLsbD_eq
  intro i hi
  simp [dataHalf, hi]

/-- The pair as a read returns it: VREG in the high byte, ARMRST in the low byte (20_memory R65). -/
theorem zextHalf_pairOf (vreg armrst : Byte) :
    zextHalf (pairOf vreg armrst) = zextByte vreg <<< 8 ||| zextByte armrst := by
  apply BitVec.eq_of_getLsbD_eq
  intro i hi
  by_cases h8 : i < 8
  · simp [zextHalf, pairOf, zextByte, hi, h8, show i < 16 by omega]
  · by_cases h16 : i < 16
    · simp [zextHalf, pairOf, zextByte, hi, h8, h16]
    · simp [zextHalf, pairOf, zextByte, h8, h16, BitVec.getLsbD_of_ge vreg (i - 8) (by omega)]

/-! ### The accesses of the latch, of VREG and of the pair -/

section accesses
variable (d : Word) (s : State)

theorem exec_regWr8Rst : exec (.regWr8Rst d) s = .next { s with
    blk := { s.blk with armrst := dataLowByte d }
    env := { s.env with copEnabled := some (copEnabledBy (dataLowByte d)) }
    trace := s.trace ++ [.copSetEnabled (copEnabledBy (dataLowByte d))], rv := none } := rfl

theorem exec_regWr8Vreg : exec (.regWr8Vreg d) s = .next { s with
    blk := { s.blk with vreg := dataLowByte d }, trace := s.trace ++ [.log (.vregWrite (dataLowByte d))]
    rv := none } := rfl

/-- A pair read is the two byte reads put together (41_reset_latch_decoder R162). -/
theorem exec_regRd16Pair : exec .regRd16Pair s = .next { s with
    rv := some (zextByte s.blk.vreg <<< 8 ||| zextByte s.blk.armrst) } := by
  rw [← zextHalf_pairOf]; rfl

theorem exec_regWr16Pair : exec (.regWr16Pair d) s = .next { s with
    blk := { s.blk with vreg := dataHighByte d, armrst := dataLowByte d }
    env := { s.env with copEnabled := some (copEnabledBy (dataLowByte d)) }
    trace := s.trace ++ [.log (.vregArmrstWrite (dataHighByte d) (dataLowByte d)),
      .copSetEnabled (copEnabledBy (dataLowByte d))]
    rv := none } := by
  rw [List.append_cons]; rfl

/-- The byte writes of VREG and then of ARMRST (41_reset_latch_decoder R162). -/
theorem runAll_byteWrites (vreg armrst : Byte) :
    runAll [.regWr8Vreg (zextByte vreg), .regWr8Rst (zextByte armrst)] s = .next { s with
      blk := { s.blk with vreg := vreg, armrst := armrst }
      env := { s.env with copEnabled := some (copEnabledBy armrst) }
      trace := s.trace ++ [.log (.vregWrite vreg), .copSetEnabled (copEnabledBy armrst)], rv := none } := by
  rw [runAll_cons (exec_regWr8Vreg ..), runAll_cons (exec_regWr8Rst ..), runAll_nil]
  simp

end accesses

/-- Settles O25: each access selects its row, and the collaborator of CopSetEnabled is the only one that acts. -/
theorem latchAndVregByteAccesses : Obligations.LatchAndVregByteAccesses := by
  intro s d lo on
  obtain ⟨hrdRst, hwrRst⟩ := decode_regByte_aRst s.cfg d d
  obtain ⟨hrdVreg, hwrVreg⟩ := decode_regByte_aVreg s.cfg d d
  have hon : copEnabledBy (dataLowByte d) = on := copEnabledBy_dataLowByte d
  exact ⟨⟨hrdRst, rfl⟩, ⟨hwrRst, hon ▸ exec_regWr8Rst d s⟩, ⟨hrdVreg, rfl⟩, hwrVreg, exec_regWr8Vreg d s⟩

/-- Settles O26: both accesses select their rows; `exec_regRd16Pair` and `exec_regWr16Pair` say what they do. -/
theorem pairAccesses : Obligations.PairAccesses := by
  intro s d lo hi on
  obtain ⟨hrd, hwr⟩ := decode_regHalf_aRst s.cfg d d
  have hon : copEnabledBy (dataLowByte d) = on := copEnabledBy_dataLowByte d
  exact ⟨⟨hrd, exec_regRd16Pair s⟩, hwr, hon ▸ exec_regWr16Pair d s⟩

/-- Settles O27: the pair's read and write by `exec_regRd16Pair` and `exec_regWr16Pair`, the byte writes by
`runAll_byteWrites`; RESET leaves both bytes 0. -/
theorem pairAndByteViewsAgree : Obligations.PairAndByteViewsAgree := by
  intro s d
  refine ⟨⟨_, _, _, _, _, _, exec_regRd16Pair s, rfl, rfl, rfl, rfl, rfl, rfl⟩,
    ⟨_, _, exec_regWr16Pair d s, runAll_byteWrites s (dataHighByte d) (dataLowByte d), rfl, rfl, ?_⟩, ?_⟩
  · simp
  · have hreset : exec (.reset d) s = .next { s with blk := resetBlock d, rv := none } := rfl
    exact ⟨_, (runAll_cons hreset _).trans (runAll_cons (exec_regRd16Pair _) []), by simp [resetBlock, zextByte]⟩

/-! ### The enable function -/

/-- A write of ARMRST emits CopSetEnabled last, on the value it stores (41_reset_latch_decoder R161). -/
theorem getLast?_emitted_of_latchWrite {i : Instr} (hi : ∃ d, i = .regWr8Rst d ∨ i = .regWr16Pair d) (s : State) :
    (emitted i s).getLast? =
      some (.copSetEnabled (copEnabledBy (latchAfter i s.blk.armrst s.blk.vreg).1)) := by
  obtain ⟨d, rfl | rfl⟩ := hi <;> rfl

/-- CopSetEnabled comes from a write of ARMRST (41_reset_latch_decoder R161). -/
theorem copSetEnabled_mem_emitted {i : Instr} {s : State} {b : Bool} (h : .copSetEnabled b ∈ emitted i s) :
    ∃ d, i = .regWr8Rst d ∨ i = .regWr16Pair d := by
  cases i with
  | regWr8Rst d => exact ⟨d, .inl rfl⟩
  | regWr16Pair d => exact ⟨d, .inr rfl⟩
  | dma0WrSt data =>
    simp only [emitted, primaryEmitted] at h
    split at h
    · cases hi : inlineTransfer s.cfg (s.chan .ch0).count <;> simp [hi] at h
    · simp at h
  | dma1WrSt data | dma2WrSt data | dma3WrSt data =>
    simp only [emitted, gpEmitted] at h
    split at h <;> simp at h
  | dma0Done => cases hb : (s.chan .ch0).busy <;> simp [emitted, hb] at h
  | _ => simp [emitted] at h

/-- Settles O28: the events are `emitted`'s, and ARMRST holds what `latchAfter` says was stored. -/
theorem copSetEnabledFollowsLatchWrites : Obligations.CopSetEnabledFollowsLatchWrites := by
  intro i s t h
  have hstored : t.blk.armrst = (latchAfter i s.blk.armrst s.blk.vreg).1 := congrArg Prod.fst (exec_leavesParts h).latch
  refine ⟨emitted i s, (exec_takesOneOperation h).trace, fun hi => ?_, fun b hb => copSetEnabled_mem_emitted hb⟩
  rw [hstored]
  exact getLast?_emitted_of_latchWrite hi s

/-! ### The accesses that the block does not intercept -/

/-- A forwarded read (41_reset_latch_decoder R157), in terms of the answer and what taking it leaves. -/
theorem exec_regRdPass {s : State} {v : Half} {env : Env} (hv : s.env.nextAnswer = v) (henv : s.env.afterAnswer = env)
    (w : Narrow) (a : RegAddr) : exec (.regRdPass w a) s = .next { s with
      env := env, trace := s.trace ++ [.extRead a (RegVal.ofHalf w v)], rv := some (RegVal.ofHalf w v).zext } := by
  subst hv henv
  rfl

/-- Settles O29: the answer is the head of those listed, or the free value where none is. -/
theorem passThroughReadsForward : Obligations.PassThroughReadsForward := by
  intro s a x
  refine ⟨fun hrst hvreg => (decode_regByte_pass s.cfg x x hrst hvreg).1,
    fun hrst => (decode_regHalf_pass s.cfg x x hrst).1, fun v rest hlist => ?_, fun hnone => ⟨s.env.nextAnswer, ?_⟩⟩
  · have hv : s.env.nextAnswer = v := by simp [Env.nextAnswer, hlist]
    have henv : s.env.afterAnswer = { s.env with extAnswers := rest } := by simp [Env.afterAnswer, hlist]
    exact ⟨exec_regRdPass hv henv .one a, exec_regRdPass hv henv .two a⟩
  · have henv : s.env.afterAnswer = { s.env with draws := s.env.draws + 1 } := by simp [Env.afterAnswer, hnone]
    exact ⟨exec_regRdPass rfl henv .one a, exec_regRdPass rfl henv .two a⟩

/-- Settles O30: an access that is not intercepted selects the catch-all, whose event no collaborator of the model acts
on. -/
theorem passThroughWritesForward : Obligations.PassThroughWritesForward := by
  intro s a d
  refine ⟨fun hrst hvreg => (decode_regByte_pass s.cfg d d hrst hvreg).2,
    fun hrst => (decode_regHalf_pass s.cfg d d hrst).2, ?_, rfl⟩
  rw [← extractLsb'_dataHalf]
  rfl

/-- Settles O31: the width alone selects the row, and no collaborator acts on a diagnostic. -/
theorem regInvalidWidthIsDiagnosed : Obligations.RegInvalidWidthIsDiagnosed :=
  fun s a d => ⟨⟨decode_regReadWord s.cfg d a, rfl⟩, decode_regWriteWord s.cfg d a, rfl⟩

end Sys2Proof.Machine

/-! PROOFS. The DMA engines (spec/42_dma.md): the registers, the trigger condition, the two ways a transfer ends, and the
phases of the channels. -/

namespace Sys2Proof.Machine

/-! ### The registers that a completion leaves, as the rules write them -/

/-- The registers after `Complete(c)` with the byte count as LEN under its mask (42_dma R199, R200); a general-purpose
channel has no suspend indicator (10_state R32). -/
theorem Channel.completed_eq (cfg : Config) (c : Chan) (r : Channel) : r.completed cfg c = {
    dst := r.dst + (r.len &&& 0x7FFFFFFF#32), src := r.src + (r.len &&& 0x7FFFFFFF#32), len := 0#32, dir := r.dir,
    en := if r.len.getLsbD 31 then r.en else 0#32, st := 0#32,
    susp := if c = .ch0 then r.susp ||| cfg.suspInd else r.susp } := by
  rw [Channel.completed, Channel.count_eq]; rfl

/-! ### The trigger condition -/

theorem State.triggers_eq_true_iff (s : State) (c : Chan) (data : Word) : s.triggers c data = true ↔
    data.getLsbD 0 = true ∧ (s.chan c).en.getLsbD 0 = true :=
  Bool.and_eq_true_iff

section trigger
variable {s : State} {c : Chan} {d : Word}

/-- A start write without the trigger condition changes nothing (42_dma R198). -/
theorem exec_wrSt_off (h : s.triggers c d = false) : exec (wrSt c d) s = .next { s with rv := none } := by
  by_cases hc : c = .ch0
  · subst hc; rw [exec_wrSt_ch0, s.primaryTrigger_off d h]; rfl
  · rw [exec_wrSt_of_ne_ch0 hc, s.gpTrigger_off c d h]; rfl

/-- A start write looks at nothing of its data but the trigger condition (42_dma R198). -/
theorem exec_wrSt_congr {d' : Word} (h : s.triggers c d = s.triggers c d') :
    exec (wrSt c d) s = exec (wrSt c d') s := by
  by_cases hc : c = .ch0
  · subst hc; rw [exec_wrSt_ch0, exec_wrSt_ch0, State.primaryTrigger, State.primaryTrigger, h]
  · rw [exec_wrSt_of_ne_ch0 hc, exec_wrSt_of_ne_ch0 hc, State.gpTrigger, State.gpTrigger, h]

/-- A triggered transfer emits its move, busy or not (42_dma R199). -/
theorem move_mem_emitted_wrSt (h : s.triggers c d = true) :
    .move (s.chan c).moveDst (s.chan c).moveSrc (s.chan c).count ∈ emitted (wrSt c d) s := by
  cases c with
  | ch0 => simp [wrSt, emitted, primaryEmitted, h]
  | ch1 | ch2 | ch3 => simp [wrSt, emitted, gpEmitted, h]

end trigger

/-- Settles O36: the start write without the condition by `exec_wrSt_off`; with it the events hold the move, and the data 1
meets the same condition. -/
theorem triggerNeedsBothBits : Obligations.TriggerNeedsBothBits := by
  intro s c d
  refine ⟨fun h => exec_wrSt_off ((s.triggers_eq_false_iff c d).2 h), fun hd hen => ?_⟩
  have ht : s.triggers c d = true := (s.triggers_eq_true_iff c d).2 ⟨hd, hen⟩
  have ht1 : s.triggers c 1#32 = true := (s.triggers_eq_true_iff c _).2 ⟨rfl, hen⟩
  obtain ⟨t, h⟩ := exec_completes (i := wrSt c d) (by cases c <;> simp [wrSt]) s
  exact ⟨t, _, h, (exec_takesOneOperation h).trace, ⟨_, _, _, move_mem_emitted_wrSt ht⟩,
    (exec_wrSt_congr (ht1.trans ht.symm)).trans h⟩

/-! ### The triggers and the deferred completion -/

/-- Settles O37: channel 0's trigger below the threshold by `exec_wrSt_inline`, at or above it by `exec_wrSt_defer`, and
without the trigger condition by `exec_wrSt_off`. -/
theorem primaryTriggerCompletesOrDefers : Obligations.PrimaryTriggerCompletesOrDefers := by
  intro s d r n mvDst mvSrc cyc
  refine ⟨decode_encode (i := .dma0WrSt d) rfl, fun hd hen hshort => ?_, fun hd hen hlong => ?_,
    fun h => exec_wrSt_off ((s.triggers_eq_false_iff .ch0 d).2 h)⟩
  · have hi := (inlineTransfer_count_iff s.cfg r).2 hshort
    obtain ⟨t, h, honly, hrv, hchan, henv, htrace⟩ := exec_wrSt_inline ((s.triggers_eq_true_iff .ch0 d).2 ⟨hd, hen⟩) hi
    rw [Channel.count_eq] at htrace
    exact ⟨t, h, honly, hrv, hchan.trans (Channel.completed_eq ..), htrace, by rw [henv]⟩
  · have hi := Bool.eq_false_iff.2 (mt (inlineTransfer_count_iff s.cfg r).1 (not_lt.2 hlong))
    obtain ⟨t, h, honly, hrv, hchan, henv, htrace⟩ := exec_wrSt_defer ((s.triggers_eq_true_iff .ch0 d).2 ⟨hd, hen⟩) hi
    rw [cycles_count, Channel.count_eq] at htrace
    exact ⟨t, h, honly, hrv, hchan, htrace, by rw [henv]⟩

/-- Settles O38: the trigger by `exec_wrSt_gp`, which looks at no threshold. -/
theorem generalPurposeTriggerCompletesAtOnce : Obligations.GeneralPurposeTriggerCompletesAtOnce := by
  intro s c d hc r n mvDst mvSrc
  refine ⟨decode_dmaWrite s.cfg d c 0x18#5, fun hd hen => ?_,
    fun h => exec_wrSt_off ((s.triggers_eq_false_iff c d).2 h)⟩
  obtain ⟨t, h, honly, hrv, hchan, henv, htrace⟩ := exec_wrSt_gp hc ((s.triggers_eq_true_iff c d).2 ⟨hd, hen⟩)
  rw [Channel.completed_eq, if_neg hc] at hchan
  rw [Channel.count_eq] at htrace
  exact ⟨t, h, honly, hrv, hchan, htrace, by rw [henv]⟩

/-- Settles O39: DMA0.DONE on a busy channel and on an idle one. -/
theorem deferredCompletionIsGuardedByBusy : Obligations.DeferredCompletionIsGuardedByBusy := by
  intro s x r n
  refine ⟨decode_event s.cfg x 2#15, fun hbusy => ?_, fun hidle => ⟨_, execDma0Done_idle s hidle, rfl⟩⟩
  exact ⟨_, execDma0Done_busy s hbusy, onlyChannel_of_blk rfl rfl rfl, rfl,
    (State.chan_of_blk rfl).1.trans (Channel.completed_eq ..), rfl, rfl⟩

theorem Channel.busy_of_st_zero {r : Channel} (h : r.st = 0#32) : r.busy = false := by rw [Channel.busy, h]; rfl

theorem Channel.busy_of_st_one {r : Channel} (h : r.st = 1#32) : r.busy = true := by rw [Channel.busy, h]; rfl

/-- DMA0.DONE on an idle channel 0 leaves the block and the trace as they were (42_dma R207). -/
theorem exec_dma0Done_of_idle {s : State} (h : (s.chan .ch0).st = 0#32) :
    ∃ t : State, exec .dma0Done s = .next t ∧ t.blk = s.blk ∧ t.trace = s.trace :=
  ⟨_, execDma0Done_idle s (Channel.busy_of_st_zero h), rfl, rfl⟩

/-- DMA0.DONE on a channel 0 that deferred settles it and raises its interrupt (42_dma R207). -/
theorem exec_dma0Done_of_pending {s : State} (h : (s.chan .ch0).st = 1#32) :
    ∃ t : State, exec .dma0Done s = .next t ∧ (t.chan .ch0).st = 0#32 ∧ t.trace = s.trace ++ [.raiseInt ⟨.ch0⟩] :=
  ⟨_, execDma0Done_busy s (Channel.busy_of_st_one h), rfl, rfl⟩

/-- A trigger of channel 0 and the first DMA0.DONE after it: the move, then one interrupt, on either path (42_dma R208). -/
theorem runAll_trigger_done {s : State} {d : Word} (ht : s.triggers .ch0 d = true) :
    ∃ (t : State) (ev : List Event), runAll [.dma0WrSt d, .dma0Done] s = .next t ∧
      t.trace = s.trace ++ .move (s.chan .ch0).moveDst (s.chan .ch0).moveSrc (s.chan .ch0).count :: ev ∧
      raisedInts ev = 1 ∧ (t.chan .ch0).st = 0#32 := by
  cases hi : inlineTransfer s.cfg (s.chan .ch0).count with
  | true =>
    obtain ⟨u, hu, -, -, hchan, -, htrace⟩ := exec_wrSt_inline ht hi
    have hst : (u.chan .ch0).st = 0#32 := by rw [hchan]; rfl
    obtain ⟨t, hdone, hblk, hsame⟩ := exec_dma0Done_of_idle hst
    refine ⟨t, _, (runAll_cons hu _).trans (runAll_cons hdone []), hsame.trans htrace, rfl, ?_⟩
    rwa [State.chan, hblk]
  | false =>
    obtain ⟨u, hu, -, -, hchan, -, htrace⟩ := exec_wrSt_defer ht hi
    have hst : (u.chan .ch0).st = 1#32 := by rw [hchan]
    obtain ⟨t, hdone, hidle, hraised⟩ := exec_dma0Done_of_pending hst
    rw [htrace, List.append_assoc] at hraised
    exact ⟨t, _, (runAll_cons hu _).trans (runAll_cons hdone []), hraised, rfl, hidle⟩

/-- Settles O44: `runAll_trigger_done`, and a further DMA0.DONE meets an idle channel. -/
theorem retriggerWhileBusyRaisesOnce : Obligations.RetriggerWhileBusyRaisesOnce := by
  intro s d _ hd hen
  obtain ⟨t, ev, hrun, htrace, hints, hidle⟩ := runAll_trigger_done ((s.triggers_eq_true_iff .ch0 d).2 ⟨hd, hen⟩)
  obtain ⟨u, hdone, hblk, hsame⟩ := exec_dma0Done_of_idle hidle
  exact ⟨t, u, _, hrun, hdone, htrace, ⟨_, _, _, rfl⟩, hints, hidle, hblk, hsame⟩

/-! ### The phases -/

/-- The operations that settle channel 0 (42_dma R210, 70_reset_and_hazards R260): DMA0.DONE, RESET and a trigger that
completes inline. -/
def settles (i : Instr) (s : State) : Prop :=
  i = .dma0Done ∨ (∃ seed, i = .reset seed) ∨
    ∃ d, i = .dma0WrSt d ∧ s.triggers .ch0 d = true ∧ inlineTransfer s.cfg (s.chan .ch0).count = true

theorem settles_iff (i : Instr) (s : State) : settles i s ↔
    i = .dma0Done ∨ (∃ seed, i = .reset seed) ∨
      ∃ d, i = .dma0WrSt d ∧ (d.getLsbD 0 = true ∧ (s.chan .ch0).en.getLsbD 0 = true) ∧
        ((s.chan .ch0).len &&& 0x7FFFFFFF#32).toNat * (s.cfg.clock / 2 / 25000000) < 4096 := by
  simp only [settles, State.triggers_eq_true_iff, inlineTransfer_count_iff]

/-- An operation that settles channel 0 does not defer a transfer. -/
theorem not_settles_of_defers {i : Instr} {s : State} (h : defers i s) : ¬ settles i s := by
  obtain ⟨data, rfl, -, hlong⟩ := h
  rintro (hi | ⟨seed, hi⟩ | ⟨d, -, -, hshort⟩)
  · cases hi
  · cases hi
  · rw [hlong] at hshort; cases hshort

section phases
variable {i : Instr} {s t : State} (h : exec i s = .next t)
include h

theorem exec_st0_of_defers (hd : defers i s) : (t.chan .ch0).st = 1#32 := by
  obtain ⟨data, rfl, ht, hi⟩ := hd
  obtain ⟨u, hu, -, -, hchan, -, -⟩ := exec_wrSt_defer ht hi
  obtain rfl : u = t := Host.Outcome.next.inj (hu.symm.trans h)
  rw [hchan]

theorem exec_st0_of_settles (hs : Inv s) (hset : settles i s) : (t.chan .ch0).st = 0#32 := by
  obtain rfl | ⟨seed, rfl⟩ | ⟨d, rfl, ht, hi⟩ := hset
  · exact hs.chan0_st_of_done h
  · rw [(exec_leavesParts h).chan]; rfl
  · obtain ⟨u, hu, -, -, hchan, -, -⟩ := exec_wrSt_inline ht hi
    obtain rfl : u = t := Host.Outcome.next.inj (hu.symm.trans h)
    rw [hchan]; rfl

/-- Any other operation leaves the status of channel 0 as it was (10_state R31). -/
theorem exec_st0_of_neither (hd : ¬ defers i s) (hset : ¬ settles i s) : (t.chan .ch0).st = (s.chan .ch0).st := by
  rw [(exec_leavesParts h).chan]
  by_cases hc : channelOf i = some .ch0
  · rw [chanAfter_of_channelOf hc, if_pos rfl]
    cases i with
    | dma0WrSt data =>
      have htriggered : ¬ s.triggers .ch0 data = true := fun ht => by
        cases hi : inlineTransfer s.cfg (s.chan .ch0).count with
        | true => exact hset (.inr (.inr ⟨data, rfl, ht, hi⟩))
        | false => exact hd ⟨data, rfl, ht, hi⟩
      exact congrArg Channel.st (if_neg htriggered)
    | dma0Done => exact absurd (.inl rfl) hset
    | dma1WrSt data | dma2WrSt data | dma3WrSt data => cases hc
    | _ => rfl
  · rw [chanAfter_of_other hc fun seed hi => hset (.inr (.inl ⟨seed, hi⟩))]

end phases

/-- Channel 0 is Completion-Pending after a deferral, and otherwise as it was but for the operations that settle it (42_dma
R210). -/
theorem exec_pending_iff {i : Instr} {s t : State} (hs : Inv s) (h : exec i s = .next t) :
    (t.chan .ch0).st.getLsbD 0 = true ↔
      defers i s ∨ ((s.chan .ch0).st.getLsbD 0 = true ∧ ¬ settles i s) := by
  by_cases hd : defers i s
  · simp [exec_st0_of_defers h hd, hd]
  · by_cases hset : settles i s
    · simp [exec_st0_of_settles h hs hset, hd, hset]
    · simp [exec_st0_of_neither h hd hset, hd, hset]

/-- Settles O45: the invariant keeps channels 1 to 3 idle, channel 0 follows `exec_pending_iff`, and RESET is no request and
no delivery. -/
theorem phaseTransitions : Obligations.PhaseTransitions := by
  intro i s t hs h trig cyc
  refine ⟨fun c hc => ?_, ?_, ?_⟩
  · rw [(exec_keeps_inv hs h).gpIdle c hc]; rfl
  · rw [exec_pending_iff hs h, defers_iff, settles_iff]
    simp only [trig, cyc, not_or, not_exists, and_assoc, ne_eq]
  · rintro ⟨seed, rfl⟩
    rw [exec_env h]; rfl

/-! ### The registers -/

/-- Under the invariant a status register holds 1 exactly while channel 0 is Completion-Pending (10_state R38(a)(b)). -/
theorem Inv.st_eq {s : State} (hs : Inv s) (c : Chan) :
    (s.chan c).st = if c = .ch0 ∧ (s.chan .ch0).st.getLsbD 0 = true then 1#32 else 0#32 := by
  by_cases hc : c = .ch0
  · subst hc
    obtain hst | hst := hs.st0Bit <;> simp [hst]
  · rw [hs.gpIdle c hc, if_neg fun h => hc h.1]

/-- Settles O33: the status register is `Inv.st_eq`'s, and a start write that triggers nothing leaves it as it was. -/
theorem statusReadsAsBusy : Obligations.StatusReadsAsBusy := by
  intro s c d hs
  refine ⟨decode_dmaRead s.cfg d c 0x18#5, ?_, fun h => ?_⟩
  · rw [← hs.st_eq c]; rfl
  · exact ⟨_, exec_wrSt_off ((s.triggers_eq_false_iff c d).2 h), rfl⟩

/-- Settles O32: each selector selects its read, which changes only the result. -/
theorem dmaReadsReturnTheRegister : Obligations.DmaReadsReturnTheRegister := by
  intro s c x word
  have hword (low : BitVec 5) := decode_dmaRead s.cfg x c low
  exact ⟨⟨hword 0x00#5, rfl⟩, ⟨hword 0x04#5, rfl⟩, ⟨hword 0x08#5, rfl⟩, ⟨hword 0x0C#5, rfl⟩, ⟨hword 0x14#5, rfl⟩,
    ⟨hword 0x18#5, rfl⟩, hword 0x1C#5, rfl⟩

/-- A plain write replaces its channel's registers and touches nothing else (42_dma R188 to R193). -/
theorem exec_stores {i : Instr} {s : State} {c : Chan} {r : Channel} (h : exec i s = .next (s.setChan c r).done) :
    ∃ t : State, exec i s = .next t ∧ t.chan c = r ∧ OnlyChannel c s t ∧ t.env = s.env ∧ t.trace = s.trace ∧
      t.rv = none :=
  ⟨_, h, State.chan_setChan_self .., onlyChannel_of_blk rfl rfl rfl, rfl, rfl, rfl⟩

/-- Settles O34: each selector selects its write, which is `exec_stores`'s. -/
theorem dmaPlainWritesStoreTheData : Obligations.DmaPlainWritesStoreTheData := by
  intro s c d word stores
  have hword (low : BitVec 5) := decode_dmaWrite s.cfg d c low
  exact ⟨⟨hword 0x00#5, exec_stores rfl⟩, ⟨hword 0x04#5, exec_stores rfl⟩, ⟨hword 0x08#5, exec_stores rfl⟩,
    ⟨hword 0x0C#5, exec_stores rfl⟩, ⟨hword 0x14#5, exec_stores rfl⟩, hword 0x1C#5, exec_stores rfl⟩

/-- SEL[4:0] with index 4 or a byte offset names no register (42_dma R194). -/
theorem dmaLowInvalid_of_fields {low : BitVec 5} (h : low.extractLsb' 2 3 = 4#3 ∨ low.extractLsb' 0 2 ≠ 0#2) :
    dmaLowInvalid low = true := by
  simpa only [dmaLowInvalid, Bool.or_eq_true, beq_iff_eq, bne_iff_ne] using h

theorem decode_dmaReserved (cfg : Config) (c : Chan) {low : BitVec 5} (h : dmaLowInvalid low = true) (d : Word) :
    decode cfg ⟨opwOf 2#2 0#1 2#2 (dmaSel c low), d⟩ = .dmaRdRsvd c low ∧
      decode cfg ⟨opwOf 2#2 1#1 2#2 (dmaSel c low), d⟩ = .dmaWrRsvd c low d := by
  rw [decode_dmaRead, decode_dmaWrite]
  simp [low_ne_of_dmaLowInvalid h]

/-- Settles O35: SEL[4:0] that names no register selects the catch-all, a narrow access its own row whatever the selector;
no collaborator acts on a diagnostic. -/
theorem dmaInvalidAccessesAreDiagnosed : Obligations.DmaInvalidAccessesAreDiagnosed :=
  fun s c low d => ⟨fun h => decode_dmaReserved s.cfg c (dmaLowInvalid_of_fields h) d, rfl, rfl,
    fun w => ⟨⟨decode_dmaReadNarrow s.cfg d w c low, rfl⟩, decode_dmaWriteNarrow s.cfg d w c low, rfl⟩⟩

/-! ### The duration, and `Complete` -/

theorem cycles_eq (cfg : Config) (n : Word) : cycles cfg n = n.toNat * (cfg.clock / 2 / 25000000) := rfl

/-- Settles O40: below 50,000,000 cycles per second the truncating division gives 0 cycles per byte, and at 200,000,000 it
gives 4. -/
theorem cyclesAreNaturalProducts : Obligations.CyclesAreNaturalProducts := by
  intro cfg n
  refine ⟨cycles_eq cfg n, fun hslow => ?_, fun hclock => ?_⟩
  · have hzero : cfg.clock / 2 / 25000000 = 0 := by omega
    rw [inlineTransfer, cycles_eq, hzero]; rfl
  · rw [cycles_eq, hclock]; omega

theorem word_add_eq_ofNat (x y : Word) : x + y = BitVec.ofNat 32 ((x.toNat + y.toNat) % 2 ^ 32) := by
  apply BitVec.eq_of_toNat_eq
  simp

/-- Settles O41: `Complete` replaces its channel's registers, and its one event is the interrupt. -/
theorem completeSettlesTheRegisters : Obligations.CompleteSettlesTheRegisters := by
  intro s c r n t
  refine ⟨onlyChannel_of_blk rfl rfl rfl, rfl, rfl, (s.complete_chan_self c).trans ?_⟩
  have hen : (if r.len.getLsbD 31 then r.en else 0#32) = if r.len.getLsbD 31 = false then 0#32 else r.en := by
    cases r.len.getLsbD 31 <;> rfl
  rw [← word_add_eq_ofNat, ← word_add_eq_ofNat, ← hen]
  rfl

end Sys2Proof.Machine

/-! PROOFS. What spec/60_exceptions.md says of every operation: it completes (R230), interrupts come from completions only
(R232, R233), the diagnostics are those of the table (R231), and the tick and the deferred completion commute (R234). -/

namespace Sys2Proof.Machine

/-- Settles O10: every operation but an invalid word completes, with a read result exactly when it is a read. -/
theorem everyOperationCompletes : Obligations.EveryOperationCompletes := by
  intro s i hi
  obtain ⟨t, h⟩ := exec_completes hi s
  exact ⟨t, h, (exec_takesOneOperation h).rv⟩

/-! ### Interrupts -/

/-- The operations that complete a transfer of channel `c` (60_exceptions R232): a trigger of `c` that does not defer its
completion, and for channel 0 DMA0.DONE while it is Completion-Pending. -/
def completes (c : Chan) (i : Instr) (s : State) : Prop :=
  (∃ d, i = wrSt c d ∧ s.triggers c d = true ∧ (c = .ch0 → inlineTransfer s.cfg (s.chan c).count = true)) ∨
    (c = .ch0 ∧ i = .dma0Done ∧ (s.chan .ch0).busy = true)

theorem completes_iff (c : Chan) (i : Instr) (s : State) : completes c i s ↔
    (∃ d, i = wrSt c d ∧ d.getLsbD 0 = true ∧ (s.chan c).en.getLsbD 0 = true ∧
      (c = .ch0 → ((s.chan c).len &&& 0x7FFFFFFF#32).toNat * (s.cfg.clock / 2 / 25000000) < 4096)) ∨
    (c = .ch0 ∧ i = .dma0Done ∧ (s.chan .ch0).st.getLsbD 0 = true) := by
  simp only [completes, State.triggers_eq_true_iff, inlineTransfer_count_iff, and_assoc, Channel.busy, bit0]

section interrupts
variable {s : State} {c : Chan}

theorem raiseInt_mem_gpEmitted {c' : Chan} {d : Word} :
    .raiseInt ⟨c⟩ ∈ gpEmitted c' d s ↔ c = c' ∧ s.triggers c' d = true := by
  unfold gpEmitted
  split <;> rename_i ht <;> simp [ht]

theorem raiseInt_mem_primaryEmitted {d : Word} : .raiseInt ⟨c⟩ ∈ primaryEmitted d s ↔
    c = .ch0 ∧ s.triggers .ch0 d = true ∧ inlineTransfer s.cfg (s.chan .ch0).count = true := by
  unfold primaryEmitted
  split
  · rename_i ht
    cases hi : inlineTransfer s.cfg (s.chan .ch0).count <;> simp [ht]
  · rename_i ht
    simp [ht]

/-- An interrupt comes from a completion of its channel (60_exceptions R232). -/
theorem completes_of_raiseInt_mem {i : Instr} (h : .raiseInt ⟨c⟩ ∈ emitted i s) : completes c i s := by
  cases i with
  | dma0WrSt d =>
    obtain ⟨rfl, ht, hi⟩ := raiseInt_mem_primaryEmitted.1 h
    exact .inl ⟨d, rfl, ht, fun _ => hi⟩
  | dma1WrSt d | dma2WrSt d | dma3WrSt d =>
    obtain ⟨rfl, ht⟩ := raiseInt_mem_gpEmitted.1 h
    exact .inl ⟨d, rfl, ht, by simp⟩
  | dma0Done =>
    rw [emitted] at h
    split at h
    · rename_i hb
      obtain rfl : c = .ch0 := by simpa using h
      exact .inr ⟨rfl, rfl, hb⟩
    · cases h
  | _ => simp [emitted] at h

/-- A completion raises its channel's interrupt (42_dma R200, R207). -/
theorem raiseInt_mem_of_completes {i : Instr} (h : completes c i s) : .raiseInt ⟨c⟩ ∈ emitted i s := by
  obtain ⟨d, rfl, ht, hi⟩ | ⟨rfl, rfl, hb⟩ := h
  · cases c with
    | ch0 => exact raiseInt_mem_primaryEmitted.2 ⟨rfl, ht, hi rfl⟩
    | ch1 | ch2 | ch3 => exact raiseInt_mem_gpEmitted.2 ⟨rfl, ht⟩
  · simp [emitted, hb]

end interrupts

theorem raisedInts_gpEmitted_le (s : State) (c : Chan) (d : Word) : raisedInts (gpEmitted c d s) ≤ 1 := by
  unfold gpEmitted
  split
  · exact Nat.le_refl 1
  · exact Nat.zero_le 1

theorem raisedInts_primaryEmitted_le (s : State) (d : Word) : raisedInts (primaryEmitted d s) ≤ 1 := by
  unfold primaryEmitted
  split
  · cases inlineTransfer s.cfg (s.chan .ch0).count
    · exact Nat.zero_le 1
    · exact Nat.le_refl 1
  · exact Nat.zero_le 1

/-- No operation completes two transfers (60_exceptions R233). -/
theorem raisedInts_emitted_le (i : Instr) (s : State) : raisedInts (emitted i s) ≤ 1 := by
  cases i with
  | dma0WrSt d => exact raisedInts_primaryEmitted_le s d
  | dma1WrSt d | dma2WrSt d | dma3WrSt d => exact raisedInts_gpEmitted_le s _ d
  | dma0Done =>
    rw [emitted]
    split
    · exact Nat.le_refl 1
    · exact Nat.zero_le 1
  | _ => exact Nat.zero_le 1

/-- Settles O46: the events are `emitted`'s, whose interrupts are those of the completions. -/
theorem interruptsComeFromCompletions : Obligations.InterruptsComeFromCompletions := by
  intro i s t h
  refine ⟨emitted i s, (exec_takesOneOperation h).trace, raisedInts_emitted_le i s, fun c => ?_⟩
  rw [← completes_iff]
  exact ⟨completes_of_raiseInt_mem, raiseInt_mem_of_completes⟩

/-! ### Diagnostics -/

/-- What the table of 60_exceptions R231 records for an operation. -/
def diagnosed (i : Instr) : Option Diag :=
  match i with
  | .rtcRdinv _ off => some (.rtcInvalidRead off)
  | .rtcWrinv _ off d => some (.rtcInvalidWrite off d)
  | .regRdBadw a => some (.regInvalidWidthRead a .b4)
  | .regWrBadw a d => some (.regInvalidWidthWrite a .b4 d)
  | .dmaRdRsvd c low => some (.dmaInvalidRegRead c low)
  | .dmaWrRsvd c low d => some (.dmaInvalidRegWrite c low d)
  | .dmaRdBadw w c low => some (.dmaInvalidWidthRead c low w.toWidth)
  | .dmaWrBadw w c low d => some (.dmaInvalidWidthWrite c low w.toWidth d)
  | _ => none

/-- An invalid access emits its diagnostic, on which no collaborator acts, and reads 0 (60_exceptions R231). -/
theorem exec_of_diagnosed {i : Instr} {d : Diag} (hd : diagnosed i = some d) (s : State) : exec i s = .next
    { s with trace := s.trace ++ [.diag d], rv := if isRead i then some 0#32 else none } := by
  cases i with
  | rtcRdinv w off | regRdBadw a | dmaRdRsvd c low | dmaRdBadw w c low => cases hd; rfl
  | rtcWrinv w off data | regWrBadw a data | dmaWrRsvd c low data | dmaWrBadw w c low data => cases hd; rfl
  | _ => cases hd

theorem diag_not_mem_gpEmitted (d : Diag) (c : Chan) (data : Word) (s : State) : .diag d ∉ gpEmitted c data s := by
  unfold gpEmitted
  split <;> simp

theorem diag_not_mem_primaryEmitted (d : Diag) (data : Word) (s : State) : .diag d ∉ primaryEmitted data s := by
  unfold primaryEmitted
  split
  · cases inlineTransfer s.cfg (s.chan .ch0).count <;> simp
  · simp

/-- An operation outside the table emits no diagnostic. -/
theorem diag_not_mem_emitted {i : Instr} (hi : diagnosed i = none) (s : State) (d : Diag) : .diag d ∉ emitted i s := by
  cases i with
  | rtcRdinv w off | regRdBadw a | dmaRdRsvd c low | dmaRdBadw w c low => cases hi
  | rtcWrinv w off data | regWrBadw a data | dmaWrRsvd c low data | dmaWrBadw w c low data => cases hi
  | dma0WrSt data => exact diag_not_mem_primaryEmitted d data s
  | dma1WrSt data | dma2WrSt data | dma3WrSt data => exact diag_not_mem_gpEmitted d _ data s
  | dma0Done => cases hb : (s.chan .ch0).busy <;> simp [emitted, hb]
  | _ => simp [emitted]

/-- Settles O47: the table's rows by `exec_of_diagnosed`, the start write without the trigger condition by `exec_wrSt_off`,
and a half write that meets a closed window by `exec_rtcWrh_closed` and `exec_rtcWrl_closed`. -/
theorem diagnosticsAreTheTables : Obligations.DiagnosticsAreTheTables := by
  intro i s t h recorded
  have htable : recorded = diagnosed i := rfl
  have next_eq {u : State} (hu : exec i s = .next u) : t = u := Host.Outcome.next.inj (h.symm.trans hu)
  refine ⟨fun d hd => ?_, fun hnone => ?_, ?_, ?_⟩
  · exact next_eq (exec_of_diagnosed (htable ▸ hd) s)
  · exact ⟨emitted i s, (exec_takesOneOperation h).trace, diag_not_mem_emitted (htable ▸ hnone) s⟩
  · rintro c d rfl hen
    exact next_eq (exec_wrSt_off ((s.triggers_eq_false_iff c d).2 (.inr hen)))
  · rintro w d (rfl | rfl) hclosed
    · exact next_eq (exec_rtcWrh_closed w d hclosed)
    · exact next_eq (exec_rtcWrl_closed w d hclosed)

/-! ### The tick and the deferred completion -/

/-- The tick, as one record (40_rtc R128). -/
theorem exec_rtcTick (s : State) : exec .rtcTick s = .next { s with
    blk := { s.blk with rtc := s.blk.rtc + 1#32 }
    env := { s.env with armRtc := armed s.cfg s.env.armRtc.tail (rtcTickDelta s.cfg) }
    trace := s.trace ++ [.schedRequest .rtc (rtcTickDelta s.cfg)]
    rv := none } := rfl

/-- A run of two operations. -/
theorem runAll_pair {i j : Instr} {s t u : State} (ht : exec i s = .next t) (hu : exec j t = .next u) :
    runAll [i, j] s = .next u :=
  (runAll_cons ht [j]).trans (runAll_cons hu [])

/-- Settles O52: the tick leaves channel 0 and `arm[H_DMA0]` to the completion, which leaves the counter and `arm[H_RTC]` to
the tick; on a busy channel the two events change places, on an idle one there is only the tick's. -/
theorem tickAndCompletionCommute : Obligations.TickAndCompletionCommute := by
  intro s
  cases hb : (s.chan .ch0).busy with
  | true =>
    refine ⟨_, _, runAll_pair (exec_rtcTick s) (execDma0Done_busy _ hb),
      runAll_pair (execDma0Done_busy s hb) (exec_rtcTick _), rfl, rfl, ?_⟩
    rw [List.append_assoc, List.append_assoc]
    exact (List.Perm.swap ..).append_left s.trace
  | false =>
    exact ⟨_, _, runAll_pair (exec_rtcTick s) (execDma0Done_idle _ hb),
      runAll_pair (execDma0Done_idle s hb) (exec_rtcTick _), rfl, rfl, .refl _⟩

end Sys2Proof.Machine

/-! PROOFS. RESET and the hazards (spec/70_reset_and_hazards.md): what RESET writes, and what it and the other operations
leave behind for a stale callback (R262), a script (R264), a bare retrigger (R265) and a tick between half accesses (R266). -/

namespace Sys2Proof.Machine

/-! ### RESET -/

/-- RESET, as one record (70_reset_and_hazards R260). -/
theorem exec_reset (seed : Word) (s : State) :
    exec (.reset seed) s = .next { s with blk := resetBlock seed, rv := none } := rfl

/-- Settles O13: the word decodes as `decode_encode` says, and RESET is `exec_reset`'s record. -/
theorem resetEventWritesTheBlockOnly : Obligations.ResetEventWritesTheBlockOnly :=
  fun s seed => ⟨decode_encode (cfg := s.cfg) (i := .reset seed) rfl, exec_reset seed s⟩

/-- Settles O16: RESET leaves channel 0 idle, so the callback takes its request away and does nothing else. -/
theorem staleCallbackAfterResetIsNoOp : Obligations.StaleCallbackAfterResetIsNoOp := by
  intro s seed
  have hidle : Channel.busy (resetBlock seed).ch0 = false := Channel.busy_of_st_zero rfl
  exact ⟨_, _, exec_reset seed s, execDma0Done_idle _ hidle, rfl, rfl, rfl, rfl⟩

/-! ### The clock-setting script -/

/-- `rtc.set` writes both halves within one window (30_encoding R98, 40_rtc R129(a)). -/
theorem runAll_rtcSet (s : State) (v : Word) : runAll ((rtcSet v).map fun l => decode s.cfg l.op) s =
    .next { s with blk := { s.blk with rtc := v, rtcEn := false }, rv := none } := by
  have hops : (rtcSet v).map (fun l => decode s.cfg l.op) =
      [.rtcWren .b4 1#32, .rtcWrl .b4 (zextHalf (rtcLow v)), .rtcWrh .b4 (zextHalf (rtcHigh v))] := by
    simp [rtcSet, Line.op_wrRtc]
  rw [hops, runAll_arm_low_high, dataHalf_zextHalf, dataHalf_zextHalf, rtcOf_halves, runAll_nil]

/-- Settles O53: the machine runs the script as the operations its lines decode to. -/
theorem clockSettingScript : Obligations.ClockSettingScript :=
  fun s v => run_offerScript (rtcSet v) (runAll_rtcSet s v)

/-! ### A tick between two half accesses -/

/-- The low half counts modulo 2^16, whatever the high half (40_rtc R128). -/
theorem rtcLow_add_one (v : Word) : rtcLow (v + 1#32) = rtcLow v + 1#16 := by
  apply BitVec.eq_of_toNat_eq
  simp [rtcLow]

/-- The halves share no bit, so putting them together adds them. -/
theorem rtcOf_eq_add (hi lo : Half) : rtcOf hi lo = zextHalf hi <<< 16 + zextHalf lo := by
  refine (BitVec.add_eq_or_of_and_eq_zero _ _ ?_).symm
  apply BitVec.eq_of_getLsbD_eq
  intro i hi'
  by_cases h : i < 16
  · simp [h]
  · simp [BitVec.getLsbD_of_ge lo i (not_lt.1 h)]

/-- A high half read before the tick that carries, with the low half read after it, is 65536 below the counter
(70_reset_and_hazards R266(a)). -/
theorem rtcOf_stale_high {v : Word} (h : rtcLow v = 0xFFFF#16) :
    rtcOf (rtcHigh v) (rtcLow (v + 1#32)) + 65536#32 = v + 1#32 :=
  calc rtcOf (rtcHigh v) (rtcLow (v + 1#32)) + 65536#32
    _ = rtcOf (rtcHigh v) 0#16 + 65536#32 := by rw [rtcLow_add_one, h]; rfl
    _ = rtcOf (rtcHigh v) 0xFFFF#16 + 1#32 := by
      rw [rtcOf_eq_add, rtcOf_eq_add, BitVec.add_assoc, BitVec.add_assoc]; rfl
    _ = v + 1#32 := by rw [← h, rtcOf_halves]

/-- A tick in an open window counts the low word just written, and the high-word write then replaces the other half
(70_reset_and_hazards R266(b)). -/
theorem runAll_arm_low_tick_high (s : State) (w : Width) (l h : Word) :
    ∃ t : State, runAll [.rtcWren w 1#32, .rtcWrl w l, .rtcTick, .rtcWrh w h] s = .next t ∧
      t.blk.rtc = rtcOf (dataHalf h) (dataHalf l + 1#16) := by
  rw [runAll_arm, runAll_cons (exec_rtcWrl_armed w l rfl), runAll_cons (exec_rtcTick _),
    runAll_cons (exec_rtcWrh_armed w h rfl), rtcLow_add_one, rtcLow_rtcOf]
  exact ⟨_, rfl, rfl⟩

/-- Settles O24: the reads by `rtcOf_stale_high`, the writes by `runAll_arm_low_tick_high`. -/
theorem tickBetweenHalfAccesses : Obligations.TickBetweenHalfAccesses := by
  intro s w l h
  refine ⟨fun hones => ⟨_, _, _, rfl, exec_rtcTick _, rfl, _, _, rfl, rfl, rtcOf_stale_high hones⟩, ?_⟩
  obtain ⟨t, hrun, hrtc⟩ := runAll_arm_low_tick_high s w l h
  refine ⟨t, hrun, ?_, ?_⟩ <;> rw [hrtc]
  · exact rtcLow_rtcOf ..
  · exact rtcHigh_rtcOf ..

/-! ### A bare retrigger -/

/-- A move of no bytes leaves the memory as it was, stated or not (20_memory R64, R77). -/
theorem Memory.move_zero (m : Memory) (ram : List Region) (dst src : Word) : m.move ram dst src 0#32 = m := by
  have herase : m.erase dst 0#32 = m := by simp [Memory.erase, inRange]
  have hcopied : m.copied dst src 0#32 = [] := by simp [Memory.copied, inRange]
  rw [Memory.move, herase, hcopied, List.foldr_nil, ite_self]

/-- An auto-repeat completion keeps the enable and leaves no bytes to move (42_dma R200). -/
theorem Channel.completed_autoRepeat (cfg : Config) (c : Chan) {r : Channel} (h : r.autoRepeat = true) :
    (r.completed cfg c).en = r.en ∧ (r.completed cfg c).len = 0#32 :=
  ⟨if_pos h, rfl⟩

/-- A start write on an enabled general-purpose channel whose LEN is 0 moves nothing, and its completion raises the
interrupt and clears the enable (42_dma R203, 70_reset_and_hazards R265). -/
theorem exec_wrSt_gp_empty {s : State} {c : Chan} {data : Word} (hc : c ≠ .ch0) (ht : s.triggers c data = true)
    (hlen : (s.chan c).len = 0#32) :
    ∃ (t : State) (e : Event) (dst src : Word), exec (wrSt c data) s = .next t ∧
      t.trace = s.trace ++ [e, .move dst src 0#32, .raiseInt ⟨c⟩] ∧ (t.chan c).en = 0#32 ∧ t.env.mem = s.env.mem := by
  have hcount : (s.chan c).count = 0#32 := by rw [Channel.count_eq, hlen]; rfl
  obtain ⟨t, h, -, -, hchan, henv, htrace⟩ := exec_wrSt_gp hc ht
  rw [hcount] at htrace
  refine ⟨t, _, _, _, h, htrace, ?_, ?_⟩
  · rw [hchan, Channel.completed_eq, hlen]; rfl
  · rw [henv, hcount]; exact Memory.move_zero ..

/-- Settles O49: the first start write completes with auto-repeat, which leaves the channel enabled with no bytes to move,
and the second meets `exec_wrSt_gp_empty`. -/
theorem bareRetriggerMovesNothing : Obligations.BareRetriggerMovesNothing := by
  intro s c d hc hd hen hrpt
  obtain ⟨t, ht, -, -, hchan, -, -⟩ := exec_wrSt_gp hc ((s.triggers_eq_true_iff c d).2 ⟨hd, hen⟩)
  obtain ⟨hen', hlen⟩ := Channel.completed_autoRepeat s.cfg c hrpt
  rw [← hchan] at hen' hlen
  obtain ⟨u, e, x, y, hu, htrace, hoff, hmem⟩ :=
    exec_wrSt_gp_empty hc ((t.triggers_eq_true_iff c d).2 ⟨hd, hen' ▸ hen⟩) hlen
  exact ⟨t, u, _, x, y, ht, hu, htrace, hen', by simp, by simp, hoff, hmem⟩

end Sys2Proof.Machine
